-- ==== Sys2Proof/Word.lean ====
section
/-! DEFINITION. The word types of the fusb302_arduino PD block. Every value the spec treats as bits is unsigned
(spec/00_scope.md R13: "All values are unsigned; the block has no signed quantity"). -/

namespace Sys2Proof

/-- A byte of a FIFO or of the host command port (20_memory.md R60: "Bytes are 8 bits"). -/
abbrev Byte := BitVec 8

/-- A 16-bit value: a message header, an extended header, a millisecond count, a voltage in 20 mV or in millivolts. -/
abbrev Half := BitVec 16

/-- A 32-bit data object of a frame (00_scope.md R18). -/
abbrev Obj := BitVec 32

end Sys2Proof
end

