-- ==== Sys2Proof/Config.lean ====
section
/-! DEFINITION. What is fixed for the machine: the constants spec/00_scope.md R9 marks FIXED, the type of the
parameters it leaves OPEN (their values ride in State, log 1), what crosses the transport boundary
(spec/20_memory.md R61 to R66), and the free values, which have no body. -/

namespace Sys2Proof.Config

/-! ## Constants the source states (00_scope.md R9, FIXED) -/

/-- T_SINK_WAIT_CAP, in ms. -/
def tSinkWaitCap : Nat := 350

/-- T_REQ_TO_PS_RDY, in ms. -/
def tReqToPsRdy : Nat := 580

/-- T_PPS_REQUEST, in ms. -/
def tPpsRequest : Nat := 5000

/-- T_PD_POLLING, in ms. -/
def tPdPolling : Nat := 100

/-- N_SRC_CAP_RETRY. -/
def nSrcCapRetry : Nat := 3

/-- N_AUTO_RETRY: the retries the transceiver is configured to make. -/
def nAutoRetry : Nat := 3

/-- N_CC_RESAMPLE. -/
def nCcResample : Nat := 5

/-- MAX_OBJ: data objects in a frame. -/
def maxObj : Nat := 7

/-- SPEC_REV: the value of the header field specRevision on transmit. -/
def specRev : BitVec 2 := 2

/-- DEFAULT_MV, in mV. -/
def defaultMv : BitVec 32 := 5000

/-- DEFAULT_MA, in mA. -/
def defaultMa : BitVec 32 := 1000

/-- PPS_TWO_STAGE_MV in units of 20 mV: 250 x 20 mV = 5000 mV (44_policy.md R302). -/
def ppsTwoStage : Half := 250

/-- SINK_PDO (30_encoding.md R107): 5 V, 1 A, every other bit 0. -/
def sinkPdo : Obj := 0x00019064

/-! ## Parameters the source leaves open -/

/-- REJECT_POLICY (00_scope.md R9; 41_codec_rx.md R178). -/
inductive RejectPolicy where
  | asPsRdy
  | distinct
  deriving DecidableEq, Repr, Inhabited

/-- One row of POWER_OPTION_TABLE (43_negotiation.md R243). -/
structure PowerRow where
  limit : Nat
  useV  : Bool
  useI  : Bool
  deriving DecidableEq, Repr, Inhabited

/-- MSG_TYPE codes: for each table of 30_encoding.md R95 to R97, the type code of each of its entries, in the table's
order, the catch-all left out. -/
structure TypeCodes where
  ctrl : List (BitVec 5)
  data : List (BitVec 5)
  ext  : List (BitVec 5)
  deriving DecidableEq, Repr

/-- n entries have the codes 0 to n - 1 in some order: "a different code moves a named entry to another index"
(93_implementation_defined.md G1), and the table still ends one past its highest code (30_encoding.md R92). -/
def codesPermute (n : Nat) (codes : List (BitVec 5)) : Bool :=
  codes.length == n && codes.all (fun c => c.toNat < n) && decide codes.Nodup

/-- The shape of the codes: 23 CTRL, 16 DATA and 16 EXT entries below their catch-alls (30_encoding.md R92). -/
def TypeCodes.wf (c : TypeCodes) : Bool :=
  codesPermute 23 c.ctrl && codesPermute 16 c.data && codesPermute 16 c.ext

/-- The parameters of 00_scope.md R9 marked OPEN on which a rule depends. -/
structure Params where
  /-- MSG_TYPE codes -/
  codes : TypeCodes
  /-- REJECT_POLICY -/
  rejectPolicy : RejectPolicy
  /-- N_POLL_TRIES -/
  nPollTries : Nat
  /-- N_CRC_BYTES -/
  nCrcBytes : Nat
  /-- TOK_SOP1 -/
  tokSop1 : Byte
  /-- TOK_SOP2 -/
  tokSop2 : Byte
  /-- TOK_PACKSYM -/
  tokPackSym : Byte
  /-- TOK_JAM_CRC -/
  tokJamCrc : Byte
  /-- TOK_EOP -/
  tokEop : Byte
  /-- TOK_TXOFF -/
  tokTxOff : Byte
  /-- TOK_TXON -/
  tokTxOn : Byte
  /-- POWER_OPTION_TABLE, eight rows -/
  powerOptions : List PowerRow
  /-- SINK_CAP_EXT_BLOCK, 22 bytes -/
  sinkCapExtBlock : List Byte
  /-- SINK_CAP_EXT_SIZE -/
  sinkCapExtSize : BitVec 9
  /-- id_recognised, as the set of recognised bytes: bit b is set when the byte b is recognised (log 11) -/
  recognisedIds : BitVec 256
  /-- T_CC_SAMPLE_MS -/
  tCcSampleMs : Nat
  /-- T_GUARD_MS -/
  tGuardMs : Nat
  /-- T_HARD_RESET_SETTLE_MS -/
  tHardResetSettleMs : Nat
  deriving DecidableEq, Repr

/-- What 00_scope.md R9 says of the parameters' shape: a code for every entry, eight power-option rows, 22 block bytes, at
least one try. -/
def Params.wf (p : Params) : Bool :=
  p.codes.wf && p.powerOptions.length == 8 && p.sinkCapExtBlock.length == 22 && 1 ≤ p.nPollTries

/-! ## The transport boundary -/

/-- How a transport transaction fails (20_memory.md R61). -/
inductive TransportError where
  | read
  | write
  deriving DecidableEq, Repr, Inhabited

/-- A LineLevel (10_state.md R24), in the source's order. -/
inductive LineLevel where
  | opn
  | rdUsb
  | rd1A5
  | rd3A0
  deriving DecidableEq, Repr, Inhabited

/-- The record `X.read_status()` returns (20_memory.md R64). -/
structure XStatus where
  vbusOk     : Bool
  iHardReset : Bool
  iGcrcSent  : Bool
  rxEmpty    : Bool
  deriving DecidableEq, Repr, Inhabited

/-- What the environment answers to one transport primitive (00_scope.md R11): whether it fails, how far the clock
moves up to its end (what a delay before it took beyond its least time included, log 3), and the data it returns, of
which a primitive uses the part that is its own. -/
structure XAnswer where
  fail   : Option TransportError
  dt     : Half
  byte   : Byte
  status : XStatus
  level  : LineLevel
  bytes  : List Byte
  deriving DecidableEq, Repr, Inhabited

/-! ## Free values -/

/-- The environment's answer to the n-th transport primitive where nothing in State says what it is (00_scope.md R11:
"a model takes those answers as free inputs"; 93_implementation_defined.md U5; log 2). -/
opaque freeAnswer : Nat → XAnswer

/-- Byte i of the n-th transaction, where the receive FIFO held fewer bytes than were asked for (20_memory.md R66:
"a model treats the missing bytes as free inputs"; log 2). -/
opaque freeByte : Nat → Nat → Byte

/-- XCVR_ADDR, the transceiver's device address: no value in the spec, and "no rule depends on it"
(20_memory.md R70; log 11). -/
opaque xcvrAddr : BitVec 7

end Sys2Proof.Config
end

