-- ==== Sys2Proof/Syntax.lean ====
section
/-! DEFINITION. The instructions of the block: one constructor for every mnemonic of spec/opcode_table.json
(00_scope.md R3: the host commands, the received wire messages and the transmitted wire messages), in the table's order. -/

namespace Sys2Proof

/-- Where the bytes of an instruction come from (30_encoding.md R110, R88, R99): the host command port, a received
frame's header and objects, or the header of a message the block builds. The opcode table gives these as its
formats CMD, RX_* and TX; a 16-bit word does not itself say which of the last two it is. -/
inductive Format where
  | cmd
  | rx
  | tx
  deriving DecidableEq, Repr, Inhabited

/-- The fields of a received header that no rule reads (30_encoding.md R80, R81; 41_codec_rx.md R171): the
specification revision [7:6], the message id [11:9] and the unnamed bits 5 and 8. They are kept so that an
instruction determines its word. -/
structure RxFields where
  rev  : BitVec 2
  id   : BitVec 3
  bit5 : BitVec 1
  bit8 : BitVec 1
  deriving DecidableEq, Repr, Inhabited

/-- The instructions. Host commands carry the operands of 30_encoding.md R111. A received message carries its
unread header fields and, in the DATA and EXT tables, its data objects (their number is the header's count); the three
catch-alls carry the type they were reached by. A transmitted message carries the id field of its word. -/
inductive Instr where
  -- the application boundary (44_policy.md)
  | init (option : Byte) (ppsMv ppsMa : Half)
  | tick
  | isTrans
  | getMv
  | getMa
  | getMw
  | getReady
  | reqPps (mv ma : Half)
  | reqOpt (option : Byte)
  -- the framer's commands (40_framer.md)
  | frInit
  | frPoll
  | frSetVbusSense (en : Byte)
  | frReadCc
  | frReadVbus
  | frReadId
  | frTxFrame (header : Half) (objs : List Obj)
  | frTxHardReset
  | frGetRx
  -- the codec's and the negotiation's commands (41_codec_rx.md, 42_codec_tx.md, 43_negotiation.md)
  | peInit
  | peReset
  | peHandleMsg (header : Half) (objs : List Obj)
  | peRespond
  | peEvaluate (v : Half) (i : Byte)
  | peCreateGetSrcCap
  | peCreateGetPpsStatus
  | peCreateRequest
  | peSetPowerOption (option : Byte)
  | peSelectPower (index : Byte)
  | peSetPps (v : Half) (i strict : Byte)
  | peGetPowerInfo (index : Byte)
  | peGetSelected
  | peGetPpsStatus
  | peGetTarget
  | cmdReserved (op : Byte)
  -- received control messages (30_encoding.md R95)
  | rxCReserved0 (f : RxFields)
  | rxGoodCrc (f : RxFields)
  | rxGotoMin (f : RxFields)
  | rxAccept (f : RxFields)
  | rxReject (f : RxFields)
  | rxPing (f : RxFields)
  | rxPsRdy (f : RxFields)
  | rxGetSourceCap (f : RxFields)
  | rxGetSinkCap (f : RxFields)
  | rxDrSwap (f : RxFields)
  | rxPrSwap (f : RxFields)
  | rxVconnSwap (f : RxFields)
  | rxWait (f : RxFields)
  | rxSoftReset (f : RxFields)
  | rxDataReset (f : RxFields)
  | rxDataResetComplete (f : RxFields)
  | rxNotSupported (f : RxFields)
  | rxGetSourceCapExtended (f : RxFields)
  | rxGetStatus (f : RxFields)
  | rxFrSwap (f : RxFields)
  | rxGetPpsStatus (f : RxFields)
  | rxGetCountryCodes (f : RxFields)
  | rxGetSinkCapExtended (f : RxFields)
  | rxCOther (typ : BitVec 5) (f : RxFields)
  -- received data messages (30_encoding.md R96)
  | rxDReserved0 (f : RxFields) (objs : List Obj)
  | rxSourceCapabilities (f : RxFields) (objs : List Obj)
  | rxRequest (f : RxFields) (objs : List Obj)
  | rxBist (f : RxFields) (objs : List Obj)
  | rxSinkCapabilities (f : RxFields) (objs : List Obj)
  | rxBatteryStatus (f : RxFields) (objs : List Obj)
  | rxAlert (f : RxFields) (objs : List Obj)
  | rxGetCountryInfo (f : RxFields) (objs : List Obj)
  | rxEnterUsb (f : RxFields) (objs : List Obj)
  | rxDReserved9 (f : RxFields) (objs : List Obj)
  | rxDReserved10 (f : RxFields) (objs : List Obj)
  | rxDReserved11 (f : RxFields) (objs : List Obj)
  | rxDReserved12 (f : RxFields) (objs : List Obj)
  | rxDReserved13 (f : RxFields) (objs : List Obj)
  | rxDReserved14 (f : RxFields) (objs : List Obj)
  | rxVendorDefined (f : RxFields) (objs : List Obj)
  | rxDOther (typ : BitVec 5) (f : RxFields) (objs : List Obj)
  -- received extended messages (30_encoding.md R97)
  | rxEReserved0 (f : RxFields) (objs : List Obj)
  | rxSourceCapabilitiesExtended (f : RxFields) (objs : List Obj)
  | rxStatus (f : RxFields) (objs : List Obj)
  | rxGetBatteryCap (f : RxFields) (objs : List Obj)
  | rxGetBatteryStatus (f : RxFields) (objs : List Obj)
  | rxBatteryCapabilities (f : RxFields) (objs : List Obj)
  | rxGetManufacturerInfo (f : RxFields) (objs : List Obj)
  | rxManufacturerInfo (f : RxFields) (objs : List Obj)
  | rxSecurityRequest (f : RxFields) (objs : List Obj)
  | rxSecurityResponse (f : RxFields) (objs : List Obj)
  | rxFirmwareUpdateRequest (f : RxFields) (objs : List Obj)
  | rxFirmwareUpdateResponse (f : RxFields) (objs : List Obj)
  | rxPpsStatus (f : RxFields) (objs : List Obj)
  | rxCountryInfo (f : RxFields) (objs : List Obj)
  | rxCountryCodes (f : RxFields) (objs : List Obj)
  | rxSinkCapabilitiesExtended (f : RxFields) (objs : List Obj)
  | rxEOther (typ : BitVec 5) (f : RxFields) (objs : List Obj)
  -- transmitted messages (30_encoding.md R99)
  | txAccept (id : BitVec 3)
  | txReject (id : BitVec 3)
  | txGetSourceCap (id : BitVec 3)
  | txNotSupported (id : BitVec 3)
  | txGetPpsStatus (id : BitVec 3)
  | txRequest (id : BitVec 3)
  | txSinkCapabilities (id : BitVec 3)
  | txSinkCapabilitiesExtended (id : BitVec 3)
  deriving DecidableEq, Repr

/-- Why a byte string is no instruction. -/
inductive DecodeError where
  /-- the string ends before the operands its first bytes call for -/
  | truncated
  /-- a word offered as a transmitted header that is none of the eight of 30_encoding.md R99 -/
  | notTransmitted
  deriving DecidableEq, Repr, Inhabited

/-- What the decoder answers. -/
inductive Decoded where
  | instr (i : Instr)
  | rejected (why : DecodeError)
  deriving DecidableEq, Repr

end Sys2Proof
end

