-- ==== Sys2Proof/WellFormed.lean ====
section
/-! DEFINITION. Which terms of Instr stand for an instruction the port or the wire can carry. -/

namespace Sys2Proof

/-- The op codes of the command table (30_encoding.md R111); every other byte is reserved. -/
def opListed (op : Byte) : Bool :=
  (0x01 ≤ op.toNat && op.toNat ≤ 0x09) || (0x10 ≤ op.toNat && op.toNat ≤ 0x18)
    || (0x20 ≤ op.toNat && op.toNat ≤ 0x2E)

/-- The number of data objects a header announces: bits [14:12] (30_encoding.md R80). -/
def objectCount (h : Half) : Nat := (h.extractLsb' 12 3).toNat

/-- A data message has one to seven objects (30_encoding.md R91: the DATA table is the one with a count). -/
def dataObjs (objs : List Obj) : Bool := 1 ≤ objs.length && objs.length ≤ 7

/-- An extended message has up to seven objects, and the rules accept none (30_encoding.md R91, R98). -/
def extObjs (objs : List Obj) : Bool := objs.length ≤ 7

/-- The checks: as many objects as the header says, a reserved op code that is reserved, and a catch-all's type at
or above the last index of its table (30_encoding.md R92). -/
def Instr.wf : Instr → Bool
  | .frTxFrame h objs | .peHandleMsg h objs => objs.length == objectCount h
  | .cmdReserved op => !opListed op
  | .rxCOther typ _ => 23 ≤ typ.toNat
  | .rxDOther typ _ objs => 16 ≤ typ.toNat && dataObjs objs
  | .rxEOther typ _ objs => 16 ≤ typ.toNat && extObjs objs
  | .rxDReserved0 _ objs | .rxSourceCapabilities _ objs | .rxRequest _ objs | .rxBist _ objs
  | .rxSinkCapabilities _ objs | .rxBatteryStatus _ objs | .rxAlert _ objs | .rxGetCountryInfo _ objs
  | .rxEnterUsb _ objs | .rxDReserved9 _ objs | .rxDReserved10 _ objs | .rxDReserved11 _ objs
  | .rxDReserved12 _ objs | .rxDReserved13 _ objs | .rxDReserved14 _ objs | .rxVendorDefined _ objs => dataObjs objs
  | .rxEReserved0 _ objs | .rxSourceCapabilitiesExtended _ objs | .rxStatus _ objs | .rxGetBatteryCap _ objs
  | .rxGetBatteryStatus _ objs | .rxBatteryCapabilities _ objs | .rxGetManufacturerInfo _ objs
  | .rxManufacturerInfo _ objs | .rxSecurityRequest _ objs | .rxSecurityResponse _ objs
  | .rxFirmwareUpdateRequest _ objs | .rxFirmwareUpdateResponse _ objs | .rxPpsStatus _ objs
  | .rxCountryInfo _ objs | .rxCountryCodes _ objs | .rxSinkCapabilitiesExtended _ objs => extObjs objs
  | .init _ _ _ | .tick | .isTrans | .getMv | .getMa | .getMw | .getReady | .reqPps _ _ | .reqOpt _
  | .frInit | .frPoll | .frSetVbusSense _ | .frReadCc | .frReadVbus | .frReadId | .frTxHardReset | .frGetRx
  | .peInit | .peReset | .peRespond | .peEvaluate _ _ | .peCreateGetSrcCap | .peCreateGetPpsStatus
  | .peCreateRequest | .peSetPowerOption _ | .peSelectPower _ | .peSetPps _ _ _ | .peGetPowerInfo _
  | .peGetSelected | .peGetPpsStatus | .peGetTarget => true
  | .rxCReserved0 _ | .rxGoodCrc _ | .rxGotoMin _ | .rxAccept _ | .rxReject _ | .rxPing _ | .rxPsRdy _
  | .rxGetSourceCap _ | .rxGetSinkCap _ | .rxDrSwap _ | .rxPrSwap _ | .rxVconnSwap _ | .rxWait _ | .rxSoftReset _
  | .rxDataReset _ | .rxDataResetComplete _ | .rxNotSupported _ | .rxGetSourceCapExtended _ | .rxGetStatus _
  | .rxFrSwap _ | .rxGetPpsStatus _ | .rxGetCountryCodes _ | .rxGetSinkCapExtended _ => true
  | .txAccept _ | .txReject _ | .txGetSourceCap _ | .txNotSupported _ | .txGetPpsStatus _ | .txRequest _
  | .txSinkCapabilities _ | .txSinkCapabilitiesExtended _ => true

end Sys2Proof
end

