-- ==== Sys2Proof/Decode.lean ====
section
/-! DEFINITION. The decoder and the encoder (spec/30_encoding.md), both total. The decoder reads the bytes of one
instruction; bytes after its last operand are ignored (log 6). A byte string that ends before its operands do, or a
word offered as a transmitted header that is none, is rejected by name. The tables are written with the codes of
30_encoding.md R95 to R97, which opcode_table.json gives; `decodeAt` and `encodeAt` are the same under any other
MSG_TYPE codes (00_scope.md R9). -/

namespace Sys2Proof

open Sys2Proof.Config

/-! ## Byte order (20_memory.md R67: little-endian) -/

/-- Two bytes, the low one first. -/
def ofLe16 (lo hi : Byte) : Half := hi ++ lo

/-- Four bytes, the lowest first. -/
def ofLe32 (b0 b1 b2 b3 : Byte) : Obj := b3 ++ b2 ++ b1 ++ b0

/-- The bytes of a 16-bit value, low byte first. -/
def le16 (h : Half) : List Byte := [h.extractLsb' 0 8, h.extractLsb' 8 8]

/-- The bytes of a 32-bit value, lowest byte first. -/
def le32 (w : Obj) : List Byte :=
  [w.extractLsb' 0 8, w.extractLsb' 8 8, w.extractLsb' 16 8, w.extractLsb' 24 8]

/-- The bytes of a list of data objects, in order. -/
def objsBytes : List Obj → List Byte
  | [] => []
  | o :: os => le32 o ++ objsBytes os

/-- The first n data objects of a byte string, and what follows them. -/
def takeObjs : Nat → List Byte → Option (List Obj × List Byte)
  | 0, bs => some ([], bs)
  | n + 1, b0 :: b1 :: b2 :: b3 :: bs =>
    match takeObjs n bs with
    | some (os, rest) => some (ofLe32 b0 b1 b2 b3 :: os, rest)
    | none => none
  | _ + 1, _ => none

/-! ## The message header (30_encoding.md R80 to R84) -/

/-- The record `parse_header` answers (R82). -/
structure Header where
  typ   : BitVec 5
  rev   : BitVec 2
  id    : BitVec 3
  count : BitVec 3
  ext   : BitVec 1
  deriving DecidableEq, Repr

/-- `parse_header` (R82): total on 16-bit values. -/
def parseHeader (h : Half) : Header where
  typ := h.extractLsb' 0 5
  rev := h.extractLsb' 6 2
  id := h.extractLsb' 9 3
  count := h.extractLsb' 12 3
  ext := h.extractLsb' 15 1

/-- `gen_header` (R83): `type + (rev << 6) + (id << 9) + (count << 12) + (ext << 15)`, bits 5 and 8 zero. -/
def genHeader (typ : BitVec 5) (rev : BitVec 2) (id count : BitVec 3) (ext : BitVec 1) : Half :=
  typ.setWidth 16 + (rev.setWidth 16 <<< 6) + (id.setWidth 16 <<< 9) + (count.setWidth 16 <<< 12)
    + (ext.setWidth 16 <<< 15)

/-- The header of a received message, the fields no rule reads included (R80). -/
def rxHeader (typ : BitVec 5) (f : RxFields) (count : BitVec 3) (ext : BitVec 1) : Half :=
  ext ++ count ++ f.id ++ f.bit8 ++ f.rev ++ f.bit5 ++ typ

/-- The fields of a received header that no rule reads. -/
def rxFieldsOf (h : Half) : RxFields where
  rev := h.extractLsb' 6 2
  id := h.extractLsb' 9 3
  bit5 := h.extractLsb' 5 1
  bit8 := h.extractLsb' 8 1

/-! ## The extended header and payload (30_encoding.md R86, R87) -/

/-- `gen_ext_header` (R86): the data size with the chunked bit, the reserved bits zero. -/
def genExtHeader (size : BitVec 9) : Half := size.setWidth 16 + 0x8000

/-- `parse_ext_header` (R86): the data size and the chunked bit. -/
def parseExtHeader (e : Half) : BitVec 9 × BitVec 1 := (e.extractLsb' 0 9, e.extractLsb' 15 1)

/-- Bytes laid over objects, four to an object, the last one filled with zero bytes (R87: "padded with zero bytes
to a multiple of 4"). -/
def packObjs : List Byte → List Obj
  | b0 :: b1 :: b2 :: b3 :: bs => ofLe32 b0 b1 b2 b3 :: packObjs bs
  | [b0, b1, b2] => [ofLe32 b0 b1 b2 0]
  | [b0, b1] => [ofLe32 b0 b1 0 0]
  | [b0] => [ofLe32 b0 0 0 0]
  | [] => []

/-! ## Received headers (30_encoding.md R91, R92, R95 to R97) -/

/-- The CTRL table (R95): `index = min(type, 23)`. -/
def ctrlInstr (typ : BitVec 5) (f : RxFields) : Instr :=
  match typ.toNat with
  | 0 => .rxCReserved0 f
  | 1 => .rxGoodCrc f
  | 2 => .rxGotoMin f
  | 3 => .rxAccept f
  | 4 => .rxReject f
  | 5 => .rxPing f
  | 6 => .rxPsRdy f
  | 7 => .rxGetSourceCap f
  | 8 => .rxGetSinkCap f
  | 9 => .rxDrSwap f
  | 10 => .rxPrSwap f
  | 11 => .rxVconnSwap f
  | 12 => .rxWait f
  | 13 => .rxSoftReset f
  | 14 => .rxDataReset f
  | 15 => .rxDataResetComplete f
  | 16 => .rxNotSupported f
  | 17 => .rxGetSourceCapExtended f
  | 18 => .rxGetStatus f
  | 19 => .rxFrSwap f
  | 20 => .rxGetPpsStatus f
  | 21 => .rxGetCountryCodes f
  | 22 => .rxGetSinkCapExtended f
  | _ => .rxCOther typ f

/-- The DATA table (R96): `index = min(type, 16)`. -/
def dataInstr (typ : BitVec 5) (f : RxFields) (objs : List Obj) : Instr :=
  match typ.toNat with
  | 0 => .rxDReserved0 f objs
  | 1 => .rxSourceCapabilities f objs
  | 2 => .rxRequest f objs
  | 3 => .rxBist f objs
  | 4 => .rxSinkCapabilities f objs
  | 5 => .rxBatteryStatus f objs
  | 6 => .rxAlert f objs
  | 7 => .rxGetCountryInfo f objs
  | 8 => .rxEnterUsb f objs
  | 9 => .rxDReserved9 f objs
  | 10 => .rxDReserved10 f objs
  | 11 => .rxDReserved11 f objs
  | 12 => .rxDReserved12 f objs
  | 13 => .rxDReserved13 f objs
  | 14 => .rxDReserved14 f objs
  | 15 => .rxVendorDefined f objs
  | _ => .rxDOther typ f objs

/-- The EXT table (R97): `index = min(type, 16)`. -/
def extInstr (typ : BitVec 5) (f : RxFields) (objs : List Obj) : Instr :=
  match typ.toNat with
  | 0 => .rxEReserved0 f objs
  | 1 => .rxSourceCapabilitiesExtended f objs
  | 2 => .rxStatus f objs
  | 3 => .rxGetBatteryCap f objs
  | 4 => .rxGetBatteryStatus f objs
  | 5 => .rxBatteryCapabilities f objs
  | 6 => .rxGetManufacturerInfo f objs
  | 7 => .rxManufacturerInfo f objs
  | 8 => .rxSecurityRequest f objs
  | 9 => .rxSecurityResponse f objs
  | 10 => .rxFirmwareUpdateRequest f objs
  | 11 => .rxFirmwareUpdateResponse f objs
  | 12 => .rxPpsStatus f objs
  | 13 => .rxCountryInfo f objs
  | 14 => .rxCountryCodes f objs
  | 15 => .rxSinkCapabilitiesExtended f objs
  | _ => .rxEOther typ f objs

/-- The received message a header and its objects make (R91): EXT if the extended bit is set, else DATA if there is
a count, else CTRL. Total: "No received header is illegal" (R98). -/
def rxInstr (h : Half) (objs : List Obj) : Instr :=
  if h.extractLsb' 15 1 = 1 then extInstr (h.extractLsb' 0 5) (rxFieldsOf h) objs
  else if objectCount h = 0 then ctrlInstr (h.extractLsb' 0 5) (rxFieldsOf h)
  else dataInstr (h.extractLsb' 0 5) (rxFieldsOf h) objs

/-! ## Operand readers -/

/-- One `u8` operand. -/
def readU8 (bs : List Byte) (k : Byte → List Byte → Decoded) : Decoded :=
  match bs with
  | b :: rest => k b rest
  | [] => .rejected .truncated

/-- One `u16` operand, little-endian. -/
def readU16 (bs : List Byte) (k : Half → List Byte → Decoded) : Decoded :=
  match bs with
  | lo :: hi :: rest => k (ofLe16 lo hi) rest
  | _ => .rejected .truncated

/-- A header operand and the objects it announces: `header u16, objs(header[14:12])`. -/
def readFrame (bs : List Byte) (k : Half → List Obj → Decoded) : Decoded :=
  readU16 bs fun h rest =>
    match takeObjs (objectCount h) rest with
    | some (objs, _) => k h objs
    | none => .rejected .truncated

/-! ## The decoder -/

/-- The command table (30_encoding.md R111); an op code not in it is the reserved command (R98). -/
def decodeCmd (op : Byte) (bs : List Byte) : Decoded :=
  match op.toNat with
  | 0x01 => readU8 bs fun o r1 => readU16 r1 fun v r2 => readU16 r2 fun a _ => .instr (.init o v a)
  | 0x02 => .instr .tick
  | 0x03 => .instr .isTrans
  | 0x04 => .instr .getMv
  | 0x05 => .instr .getMa
  | 0x06 => .instr .getMw
  | 0x07 => .instr .getReady
  | 0x08 => readU16 bs fun v r1 => readU16 r1 fun a _ => .instr (.reqPps v a)
  | 0x09 => readU8 bs fun o _ => .instr (.reqOpt o)
  | 0x10 => .instr .frInit
  | 0x11 => .instr .frPoll
  | 0x12 => readU8 bs fun e _ => .instr (.frSetVbusSense e)
  | 0x13 => .instr .frReadCc
  | 0x14 => .instr .frReadVbus
  | 0x15 => .instr .frReadId
  | 0x16 => readFrame bs fun h objs => .instr (.frTxFrame h objs)
  | 0x17 => .instr .frTxHardReset
  | 0x18 => .instr .frGetRx
  | 0x20 => .instr .peInit
  | 0x21 => .instr .peReset
  | 0x22 => readFrame bs fun h objs => .instr (.peHandleMsg h objs)
  | 0x23 => .instr .peRespond
  | 0x24 => readU16 bs fun v r1 => readU8 r1 fun i _ => .instr (.peEvaluate v i)
  | 0x25 => .instr .peCreateGetSrcCap
  | 0x26 => .instr .peCreateGetPpsStatus
  | 0x27 => .instr .peCreateRequest
  | 0x28 => readU8 bs fun o _ => .instr (.peSetPowerOption o)
  | 0x29 => readU8 bs fun k _ => .instr (.peSelectPower k)
  | 0x2A => readU16 bs fun v r1 => readU8 r1 fun i r2 => readU8 r2 fun t _ => .instr (.peSetPps v i t)
  | 0x2B => readU8 bs fun k _ => .instr (.peGetPowerInfo k)
  | 0x2C => .instr .peGetSelected
  | 0x2D => .instr .peGetPpsStatus
  | 0x2E => .instr .peGetTarget
  | _ => .instr (.cmdReserved op)

/-- The received frame: header, then its objects (30_encoding.md R88, less the token and the CRC bytes). -/
def decodeRx (bs : List Byte) : Decoded :=
  readFrame bs fun h objs => .instr (rxInstr h objs)

/-- The eight transmitted headers, their id field taken out (30_encoding.md R99; opcode_table.json's mask 0xF1FF). -/
def decodeTx (h : Half) : Decoded :=
  let id := h.extractLsb' 9 3
  let rest := h &&& 0xF1FF
  if rest = 0x0083 then .instr (.txAccept id)
  else if rest = 0x0084 then .instr (.txReject id)
  else if rest = 0x0087 then .instr (.txGetSourceCap id)
  else if rest = 0x0090 then .instr (.txNotSupported id)
  else if rest = 0x0094 then .instr (.txGetPpsStatus id)
  else if rest = 0x1082 then .instr (.txRequest id)
  else if rest = 0x1084 then .instr (.txSinkCapabilities id)
  else if rest = 0xE08F then .instr (.txSinkCapabilitiesExtended id)
  else .rejected .notTransmitted

/-- The decoder: the bytes of one instruction of the given format. -/
def decode : Format → List Byte → Decoded
  | .cmd, op :: bs => decodeCmd op bs
  | .cmd, [] => .rejected .truncated
  | .rx, bs => decodeRx bs
  | .tx, bs => readU16 bs fun h _ => decodeTx h

/-! ## The encoder -/

/-- The format an instruction is written in. -/
def Instr.format : Instr → Format
  | .init _ _ _ | .tick | .isTrans | .getMv | .getMa | .getMw | .getReady | .reqPps _ _ | .reqOpt _
  | .frInit | .frPoll | .frSetVbusSense _ | .frReadCc | .frReadVbus | .frReadId | .frTxFrame _ _
  | .frTxHardReset | .frGetRx
  | .peInit | .peReset | .peHandleMsg _ _ | .peRespond | .peEvaluate _ _ | .peCreateGetSrcCap
  | .peCreateGetPpsStatus | .peCreateRequest | .peSetPowerOption _ | .peSelectPower _ | .peSetPps _ _ _
  | .peGetPowerInfo _ | .peGetSelected | .peGetPpsStatus | .peGetTarget | .cmdReserved _ => .cmd
  | .txAccept _ | .txReject _ | .txGetSourceCap _ | .txNotSupported _ | .txGetPpsStatus _ | .txRequest _
  | .txSinkCapabilities _ | .txSinkCapabilitiesExtended _ => .tx
  | .rxCReserved0 _ | .rxGoodCrc _ | .rxGotoMin _ | .rxAccept _ | .rxReject _ | .rxPing _ | .rxPsRdy _
  | .rxGetSourceCap _ | .rxGetSinkCap _ | .rxDrSwap _ | .rxPrSwap _ | .rxVconnSwap _ | .rxWait _
  | .rxSoftReset _ | .rxDataReset _ | .rxDataResetComplete _ | .rxNotSupported _ | .rxGetSourceCapExtended _
  | .rxGetStatus _ | .rxFrSwap _ | .rxGetPpsStatus _ | .rxGetCountryCodes _ | .rxGetSinkCapExtended _
  | .rxCOther _ _ => .rx
  | .rxDReserved0 _ _ | .rxSourceCapabilities _ _ | .rxRequest _ _ | .rxBist _ _ | .rxSinkCapabilities _ _
  | .rxBatteryStatus _ _ | .rxAlert _ _ | .rxGetCountryInfo _ _ | .rxEnterUsb _ _ | .rxDReserved9 _ _
  | .rxDReserved10 _ _ | .rxDReserved11 _ _ | .rxDReserved12 _ _ | .rxDReserved13 _ _ | .rxDReserved14 _ _
  | .rxVendorDefined _ _ | .rxDOther _ _ _ => .rx
  | .rxEReserved0 _ _ | .rxSourceCapabilitiesExtended _ _ | .rxStatus _ _ | .rxGetBatteryCap _ _
  | .rxGetBatteryStatus _ _ | .rxBatteryCapabilities _ _ | .rxGetManufacturerInfo _ _ | .rxManufacturerInfo _ _
  | .rxSecurityRequest _ _ | .rxSecurityResponse _ _ | .rxFirmwareUpdateRequest _ _
  | .rxFirmwareUpdateResponse _ _ | .rxPpsStatus _ _ | .rxCountryInfo _ _ | .rxCountryCodes _ _
  | .rxSinkCapabilitiesExtended _ _ | .rxEOther _ _ _ => .rx

/-- The bytes of a received control message. -/
def ctrlBytes (typ : BitVec 5) (f : RxFields) : List Byte := le16 (rxHeader typ f 0 0)

/-- The bytes of a received data message. -/
def dataBytes (typ : BitVec 5) (f : RxFields) (objs : List Obj) : List Byte :=
  le16 (rxHeader typ f (BitVec.ofNat 3 objs.length) 0) ++ objsBytes objs

/-- The bytes of a received extended message. -/
def extBytes (typ : BitVec 5) (f : RxFields) (objs : List Obj) : List Byte :=
  le16 (rxHeader typ f (BitVec.ofNat 3 objs.length) 1) ++ objsBytes objs

/-- The bytes of an instruction, in the format `Instr.format` names. -/
def encode : Instr → List Byte
  | .init o v a => 0x01 :: ([o] ++ le16 v ++ le16 a)
  | .tick => [0x02]
  | .isTrans => [0x03]
  | .getMv => [0x04]
  | .getMa => [0x05]
  | .getMw => [0x06]
  | .getReady => [0x07]
  | .reqPps v a => 0x08 :: (le16 v ++ le16 a)
  | .reqOpt o => 0x09 :: ([o])
  | .frInit => [0x10]
  | .frPoll => [0x11]
  | .frSetVbusSense e => 0x12 :: ([e])
  | .frReadCc => [0x13]
  | .frReadVbus => [0x14]
  | .frReadId => [0x15]
  | .frTxFrame h objs => 0x16 :: (le16 h ++ objsBytes objs)
  | .frTxHardReset => [0x17]
  | .frGetRx => [0x18]
  | .peInit => [0x20]
  | .peReset => [0x21]
  | .peHandleMsg h objs => 0x22 :: (le16 h ++ objsBytes objs)
  | .peRespond => [0x23]
  | .peEvaluate v i => 0x24 :: (le16 v ++ [i])
  | .peCreateGetSrcCap => [0x25]
  | .peCreateGetPpsStatus => [0x26]
  | .peCreateRequest => [0x27]
  | .peSetPowerOption o => 0x28 :: ([o])
  | .peSelectPower k => 0x29 :: ([k])
  | .peSetPps v i t => 0x2A :: (le16 v ++ [i] ++ [t])
  | .peGetPowerInfo k => 0x2B :: ([k])
  | .peGetSelected => [0x2C]
  | .peGetPpsStatus => [0x2D]
  | .peGetTarget => [0x2E]
  | .cmdReserved op => [op]
  | .rxCReserved0 f => ctrlBytes 0 f
  | .rxGoodCrc f => ctrlBytes 1 f
  | .rxGotoMin f => ctrlBytes 2 f
  | .rxAccept f => ctrlBytes 3 f
  | .rxReject f => ctrlBytes 4 f
  | .rxPing f => ctrlBytes 5 f
  | .rxPsRdy f => ctrlBytes 6 f
  | .rxGetSourceCap f => ctrlBytes 7 f
  | .rxGetSinkCap f => ctrlBytes 8 f
  | .rxDrSwap f => ctrlBytes 9 f
  | .rxPrSwap f => ctrlBytes 10 f
  | .rxVconnSwap f => ctrlBytes 11 f
  | .rxWait f => ctrlBytes 12 f
  | .rxSoftReset f => ctrlBytes 13 f
  | .rxDataReset f => ctrlBytes 14 f
  | .rxDataResetComplete f => ctrlBytes 15 f
  | .rxNotSupported f => ctrlBytes 16 f
  | .rxGetSourceCapExtended f => ctrlBytes 17 f
  | .rxGetStatus f => ctrlBytes 18 f
  | .rxFrSwap f => ctrlBytes 19 f
  | .rxGetPpsStatus f => ctrlBytes 20 f
  | .rxGetCountryCodes f => ctrlBytes 21 f
  | .rxGetSinkCapExtended f => ctrlBytes 22 f
  | .rxCOther typ f => ctrlBytes typ f
  | .rxDReserved0 f objs => dataBytes 0 f objs
  | .rxSourceCapabilities f objs => dataBytes 1 f objs
  | .rxRequest f objs => dataBytes 2 f objs
  | .rxBist f objs => dataBytes 3 f objs
  | .rxSinkCapabilities f objs => dataBytes 4 f objs
  | .rxBatteryStatus f objs => dataBytes 5 f objs
  | .rxAlert f objs => dataBytes 6 f objs
  | .rxGetCountryInfo f objs => dataBytes 7 f objs
  | .rxEnterUsb f objs => dataBytes 8 f objs
  | .rxDReserved9 f objs => dataBytes 9 f objs
  | .rxDReserved10 f objs => dataBytes 10 f objs
  | .rxDReserved11 f objs => dataBytes 11 f objs
  | .rxDReserved12 f objs => dataBytes 12 f objs
  | .rxDReserved13 f objs => dataBytes 13 f objs
  | .rxDReserved14 f objs => dataBytes 14 f objs
  | .rxVendorDefined f objs => dataBytes 15 f objs
  | .rxDOther typ f objs => dataBytes typ f objs
  | .rxEReserved0 f objs => extBytes 0 f objs
  | .rxSourceCapabilitiesExtended f objs => extBytes 1 f objs
  | .rxStatus f objs => extBytes 2 f objs
  | .rxGetBatteryCap f objs => extBytes 3 f objs
  | .rxGetBatteryStatus f objs => extBytes 4 f objs
  | .rxBatteryCapabilities f objs => extBytes 5 f objs
  | .rxGetManufacturerInfo f objs => extBytes 6 f objs
  | .rxManufacturerInfo f objs => extBytes 7 f objs
  | .rxSecurityRequest f objs => extBytes 8 f objs
  | .rxSecurityResponse f objs => extBytes 9 f objs
  | .rxFirmwareUpdateRequest f objs => extBytes 10 f objs
  | .rxFirmwareUpdateResponse f objs => extBytes 11 f objs
  | .rxPpsStatus f objs => extBytes 12 f objs
  | .rxCountryInfo f objs => extBytes 13 f objs
  | .rxCountryCodes f objs => extBytes 14 f objs
  | .rxSinkCapabilitiesExtended f objs => extBytes 15 f objs
  | .rxEOther typ f objs => extBytes typ f objs
  | .txAccept id => le16 (genHeader 3 2 id 0 0)
  | .txReject id => le16 (genHeader 4 2 id 0 0)
  | .txGetSourceCap id => le16 (genHeader 7 2 id 0 0)
  | .txNotSupported id => le16 (genHeader 16 2 id 0 0)
  | .txGetPpsStatus id => le16 (genHeader 20 2 id 0 0)
  | .txRequest id => le16 (genHeader 2 2 id 1 0)
  | .txSinkCapabilities id => le16 (genHeader 4 2 id 1 0)
  | .txSinkCapabilitiesExtended id => le16 (genHeader 15 2 id 6 1)

/-! ## Other type codes (00_scope.md R9, MSG_TYPE codes) -/

/-- The code of a table's entry; a row that has none, the catch-all's among them, is its own. -/
def codeIn (codes : List (BitVec 5)) (row : BitVec 5) : BitVec 5 := codes.getD row.toNat row

/-- The entry of a table that has a code; a code at or above the table's length is its own, and one that no entry has
is the catch-all's (log 18). -/
def rowIn (codes : List (BitVec 5)) (code : BitVec 5) : BitVec 5 :=
  if code.toNat < codes.length then BitVec.ofNat 5 (codes.idxOf code) else code

/-- The codes of the table a header selects (30_encoding.md R91). -/
def codesOfHeader (c : TypeCodes) (h : Half) : List (BitVec 5) :=
  if h.extractLsb' 15 1 = 1 then c.ext else if objectCount h = 0 then c.ctrl else c.data

/-- A header with another type, every other bit kept. -/
def withType (h : Half) (typ : BitVec 5) : Half := h.extractLsb' 5 11 ++ typ

/-- The header that has, with the codes of 30_encoding.md R95 to R97, the entry that h has with the codes c. -/
def toTableCode (c : TypeCodes) (h : Half) : Half := withType h (rowIn (codesOfHeader c h) (h.extractLsb' 0 5))

/-- The header that has, with the codes c, the entry that h has with the codes of 30_encoding.md R95 to R97. -/
def toWireCode (c : TypeCodes) (h : Half) : Half := withType h (codeIn (codesOfHeader c h) (h.extractLsb' 0 5))

/-- A byte string with the header at its front replaced. -/
def mapHeader (f : Half → Half) : List Byte → List Byte
  | lo :: hi :: rest => le16 (f (ofLe16 lo hi)) ++ rest
  | bs => bs

/-- The decoder under the codes c: the header of a message stands for the entry that has its type. -/
def decodeAt (c : TypeCodes) : Format → List Byte → Decoded
  | .cmd, bs => decode .cmd bs
  | .rx, bs => decode .rx (mapHeader (toTableCode c) bs)
  | .tx, bs => decode .tx (mapHeader (toTableCode c) bs)

/-- The bytes of a format under the codes c. -/
def wireBytes (c : TypeCodes) : Format → List Byte → List Byte
  | .cmd, bs => bs
  | .rx, bs => mapHeader (toWireCode c) bs
  | .tx, bs => mapHeader (toWireCode c) bs

/-- The encoder under the codes c. -/
def encodeAt (c : TypeCodes) (i : Instr) : List Byte := wireBytes c i.format (encode i)

/-! ## The opcode table's words -/

/-- The format of a word of the opcode table. A command row has 8 bits. The received and the transmitted rows both
have 16, and the table gives a transmitted header no bit that a received one lacks: a 16-bit word that is one of the
eight transmitted headers of 30_encoding.md R99 is read as that row, every other one as a received header (log 7). -/
def tableFormat (nbits w : Nat) : Format :=
  if nbits ≤ 8 then .cmd
  else match decodeTx (BitVec.ofNat 16 w) with
    | .instr _ => .tx
    | .rejected _ => .rx

/-- n bytes of a number, the lowest first. -/
def natBytes : Nat → Nat → List Byte
  | 0, _ => []
  | n + 1, w => BitVec.ofNat 8 w :: natBytes n (w / 256)

/-- The bytes of a word of the table, followed by zero bytes up to the longest instruction (PE_HANDLE_MSG and
FR_TX_FRAME with seven objects: 31 bytes). -/
def tableBytes (nbits w : Nat) : List Byte :=
  natBytes (nbits / 8) w ++ List.replicate (31 - nbits / 8) 0

/-- The instruction the decoder reads from a word of the opcode table. -/
def decodeTableWord (nbits w : Nat) : Option Instr :=
  match decode (tableFormat nbits w) (tableBytes nbits w) with
  | .instr i => some i
  | .rejected _ => none

end Sys2Proof
end

