-- ==== Sys2Proof/Machine/Params.lean ====
section
/-! DEFINITION. The default parameters: "the value this spec uses in every worked example" (spec/00_scope.md R9). -/

namespace Sys2Proof.Machine

open Sys2Proof.Config

/-- POWER_OPTION_TABLE (43_negotiation.md R243): Max5V, Max9V, Max12V, Max15V, Max20V, MaxVoltage, MaxCurrent,
MaxPower. -/
def defaultPowerOptions : List PowerRow :=
  [⟨25, true, false⟩, ⟨45, true, false⟩, ⟨60, true, false⟩, ⟨75, true, false⟩,
   ⟨100, true, false⟩, ⟨100, true, false⟩, ⟨125, false, true⟩, ⟨12500, true, true⟩]

/-- The codes of 30_encoding.md R95 to R97: every entry's code is its place in its table. -/
def defaultCodes : TypeCodes where
  ctrl := [0, 1, 2, 3, 4, 5, 6, 7, 8, 9, 10, 11, 12, 13, 14, 15, 16, 17, 18, 19, 20, 21, 22]
  data := [0, 1, 2, 3, 4, 5, 6, 7, 8, 9, 10, 11, 12, 13, 14, 15]
  ext := [0, 1, 2, 3, 4, 5, 6, 7, 8, 9, 10, 11, 12, 13, 14, 15]

/-- The defaults of 00_scope.md R9. The recognised identification bytes are those with `(b AND 0x80) != 0`
(40_framer.md R131): the 128 upper bits of the set. -/
def defaultParams : Params where
  codes := defaultCodes
  rejectPolicy := .asPsRdy
  nPollTries := 3
  nCrcBytes := 4
  tokSop1 := 0x12
  tokSop2 := 0x13
  tokPackSym := 0x80
  tokJamCrc := 0xFF
  tokEop := 0x14
  tokTxOff := 0xFE
  tokTxOn := 0xA1
  powerOptions := defaultPowerOptions
  sinkCapExtBlock := List.replicate 22 0
  sinkCapExtSize := 21
  recognisedIds := BitVec.ofNat 256 (2 ^ 256 - 2 ^ 128)
  tCcSampleMs := 1
  tGuardMs := 2
  tHardResetSettleMs := 5

/-- `id_recognised(b)` (40_framer.md R131). -/
def idRecognised (p : Params) (b : Byte) : Bool := p.recognisedIds.getLsbD b.toNat

end Sys2Proof.Machine
end

