-- ==== Sys2Proof/Machine/State.lean ====
section
/-! DEFINITION. The state of the block: the three groups of spec/10_state.md (R20), each register under the spec's
name, and beside them the model's own fields: the environment, the command port and the parameters. Plain data. -/

namespace Sys2Proof.Machine

open Sys2Proof.Config

/-! ## The codings of 10_state.md -/

/-- ATTACH_STATE (R23): 0 Unattached, 1 Attached. -/
inductive AttachState where
  | unattached
  | attached
  deriving DecidableEq, Repr, Inhabited

/-- CC_SEL (R25), and the operand of `X.set_cc`: 0 None, 1 CC1, 2 CC2. -/
inductive CcSel where
  | none
  | cc1
  | cc2
  deriving DecidableEq, Repr, Inhabited

/-- A Configuration-Channel pin (20_memory.md R65). -/
inductive Pin where
  | cc1
  | cc2
  deriving DecidableEq, Repr, Inhabited

/-- CUR_TABLE (R32): 0 None, 1 CTRL, 2 DATA, 3 EXT. -/
inductive Table where
  | none
  | ctrl
  | data
  | ext
  deriving DecidableEq, Repr, Inhabited

/-- READY_STATUS (R38): 0 NotAvailable, 1 Typical, 2 PPS. -/
inductive ReadyStatus where
  | notAvailable
  | typical
  | pps
  deriving DecidableEq, Repr, Inhabited

/-- The power levels of the transceiver (20_memory.md R62; 60_exceptions.md R340). -/
inductive PowerLevel where
  | off
  | oscillator
  | measure
  deriving DecidableEq, Repr, Inhabited

/-- The transceiver's interrupt sources that the block enables (60_exceptions.md R328). -/
inductive IntSource where
  | vbusOk
  | activity
  | crcCheck
  | collision
  | hardReset
  | retryFail
  | goodCrcSent
  deriving DecidableEq, Repr, Inhabited

/-- The status codes (60_exceptions.md R320), in the order of their numbers 0 to 6. -/
inductive Status where
  | ok
  | busy
  | readError
  | writeError
  | deviceNotFound
  | notInitialised
  | badCommand
  deriving DecidableEq, Repr, Inhabited

/-! ## Register files -/

/-- Seven 32-bit registers: RX_OBJ[0..6] (R29) or SRC_PDO[0..6] (R33). -/
structure Objs7 where
  o0 : Obj
  o1 : Obj
  o2 : Obj
  o3 : Obj
  o4 : Obj
  o5 : Obj
  o6 : Obj
  deriving DecidableEq, Repr, Inhabited

/-! ## The three groups of block state -/

/-- FR state (10_state.md section 3). -/
structure Fr where
  /-- FR_READY (R22) -/
  ready : Bool
  /-- ATTACH_STATE (R23) -/
  attach : AttachState
  /-- CC1_LVL (R24) -/
  cc1 : LineLevel
  /-- CC2_LVL (R24) -/
  cc2 : LineLevel
  /-- CC_SEL (R25) -/
  ccSel : CcSel
  /-- VBUS_SENSE_EN (R26) -/
  vbusSenseEn : Bool
  /-- VBUS_LAST (R27) -/
  vbusLast : Bool
  /-- DEV_ID (R28) -/
  devId : Byte
  /-- RX_TOKEN (R29) -/
  rxToken : Byte
  /-- RX_HDR (R29) -/
  rxHdr : Half
  /-- RX_OBJ[0..6] (R29) -/
  rxObj : Objs7
  deriving DecidableEq, Repr

/-- PE state (10_state.md section 4). -/
structure Pe where
  /-- MSG_ID (R31) -/
  msgId : BitVec 3
  /-- CUR_TABLE (R32) -/
  curTable : Table
  /-- CUR_INDEX (R32) -/
  curIndex : BitVec 5
  /-- PDO_COUNT (R33) -/
  pdoCount : BitVec 3
  /-- SRC_PDO[0..6] (R33) -/
  srcPdo : Objs7
  /-- POWER_OPTION (R34) -/
  powerOption : BitVec 3
  /-- PPS_V (R34), 20 mV units -/
  ppsV : Half
  /-- PPS_I (R34), 50 mA units -/
  ppsI : Byte
  /-- SELECTED (R35) -/
  selected : BitVec 3
  /-- PPSS_V (R36) -/
  ppssV : Half
  /-- PPSS_I (R36) -/
  ppssI : Byte
  /-- PPSS_FLAGS (R36) -/
  ppssFlags : Byte
  deriving DecidableEq, Repr

/-- PL state (10_state.md section 5). -/
structure Pl where
  /-- PL_READY (R37) -/
  ready : Bool
  /-- READY_STATUS (R38) -/
  readyStatus : ReadyStatus
  /-- READY_MV (R38) -/
  readyMv : BitVec 32
  /-- READY_MA (R38) -/
  readyMa : BitVec 32
  /-- WAIT_SRC_CAP (R39) -/
  waitSrcCap : Bool
  /-- WAIT_PS_RDY (R39) -/
  waitPsRdy : Bool
  /-- REQ_PENDING (R39) -/
  reqPending : Bool
  /-- SRC_CAP_RETRY (R40) -/
  srcCapRetry : BitVec 2
  /-- T_POLL (R41) -/
  tPoll : Half
  /-- T_SRC_CAP (R41) -/
  tSrcCap : Half
  /-- T_PS_RDY (R41) -/
  tPsRdy : Half
  /-- T_PPS_REQ (R41) -/
  tPpsReq : Half
  /-- PPS_V_NEXT (R42), 20 mV units -/
  ppsVNext : Half
  /-- PPS_I_NEXT (R42), 50 mA units -/
  ppsINext : Byte
  deriving DecidableEq, Repr

/-! ## The environment and the command port (the model's own fields) -/

/-- What the block asks of the transceiver: the primitives of 20_memory.md R62 to R66, and the delays of
60_exceptions.md R335. -/
inductive XCall where
  | swReset
  | readId
  | configure (retries : Nat) (enabled : List IntSource)
  | power (level : PowerLevel)
  | setVbusMask (en : Bool)
  | readStatus
  | sampleCc (pin : Pin)
  | clearInterrupts
  | setCc (sel : CcSel)
  | teardown
  | pdReset
  | clearGcrcSent
  | rxFlush
  | sendHardReset
  | rxRead (n : Nat)
  | txWrite (bytes : List Byte)
  | delayMs (n : Nat)
  deriving DecidableEq, Repr

/-- A primitive the block has issued, and whether it failed. -/
structure Issued where
  call : XCall
  fail : Option TransportError
  deriving DecidableEq, Repr

/-- The kinds of log tuple (44_policy.md R304). -/
inductive LogKind where
  | transmit
  | receive
  | attach
  | detach
  | capReceived
  | powerReady
  | reject
  deriving DecidableEq, Repr, Inhabited

/-- One log tuple: `(now(), kind, h?, objs?)` (44_policy.md R304). -/
structure LogEntry where
  time   : Half
  kind   : LogKind
  header : Option Half
  objs   : List Obj
  deriving DecidableEq, Repr

/-- The environment as the block meets it (00_scope.md R11). -/
structure Env where
  /-- `now()`: the 16-bit millisecond counter -/
  now : Half
  /-- ALERT -/
  alert : Bool
  /-- what the transport will answer next, in order; where it ends, the answers are free (log 2) -/
  answers : List XAnswer
  /-- how many transport primitives have been issued: the number of the next free value -/
  oracle : Nat
  /-- the primitives and delays issued, oldest first (20_memory.md R71) -/
  calls : List Issued
  /-- the log sink, oldest first (44_policy.md R304) -/
  log : List LogEntry
  deriving DecidableEq, Repr

/-- What the host brings the block at one time: an instruction's bytes, and the environment it will meet. -/
structure Stimulus where
  /-- the command is issued while another one runs (70_reset_and_hazards.md R371) -/
  overlaps : Bool
  /-- the milliseconds since the last operation, modulo 2^16: the clock moves only forward (log 3) -/
  dt : Half
  /-- ALERT during this operation -/
  alert : Bool
  /-- what the transport will answer during this operation -/
  answers : List XAnswer
  /-- where the bytes come from -/
  fmt : Format
  /-- the bytes of the instruction -/
  bytes : List Byte
  deriving DecidableEq, Repr

/-- The command port (30_encoding.md R110). -/
structure Port where
  /-- the commands still to be issued, next one first -/
  inbox : List Stimulus
  /-- the block's answer to the last command -/
  reply : List Byte
  deriving DecidableEq, Repr

/-- The machine: the block's three groups of state, the environment, the command port, and the parameters, which no
step writes (log 1). -/
structure State where
  fr : Fr
  pe : Pe
  pl : Pl
  env : Env
  port : Port
  params : Params
  deriving DecidableEq, Repr

/-! ## Why a step can stop -/

/-- The block never stops with a fault: "no operation saves state, switches a stack, masks interrupts" and every fault
is a status code that a command returns (60_exceptions.md R320, R330; log 12). So there is no constructor. -/
inductive Fault where
  deriving DecidableEq, Repr

/-- Why the model does not take a step. -/
inductive Refusal where
  /-- Raised by exec's arm of an instruction that has no meaning yet; no arm of this model is one. Safe: the model
  stops where the hardware goes on. -/
  | notModelled (mnemonic : String)
  /-- Raised by step on a command issued while another one runs: "This spec defines no behaviour for it; a model
  refuses the input" (70_reset_and_hazards.md R371; log 5). Safe: nothing is claimed of such an input. -/
  | reentrantCommand
  /-- Raised by step on a byte string that ends before its instruction does, which is no command of 30_encoding.md
  R111 (log 6). Safe: nothing is claimed of such an input. -/
  | truncatedInput
  /-- Raised by step on a word offered as a transmitted header that is none of 30_encoding.md R99's (log 9). Safe:
  the block transmits no such message. -/
  | notATransmittedHeader
  deriving DecidableEq, Repr

/-! ## Reset (70_reset_and_hazards.md R350) -/

/-- Seven registers holding 0. -/
def Objs7.zero : Objs7 := ⟨0, 0, 0, 0, 0, 0, 0⟩

/-- FR state after power-on reset: Unattached, all 0 but VBUS_SENSE_EN = 1. -/
def Fr.reset : Fr where
  ready := false
  attach := .unattached
  cc1 := .opn
  cc2 := .opn
  ccSel := .none
  vbusSenseEn := true
  vbusLast := false
  devId := 0
  rxToken := 0
  rxHdr := 0
  rxObj := Objs7.zero

/-- PE state after power-on reset and after PE_INIT: all 0 (43_negotiation.md R252). -/
def Pe.reset : Pe where
  msgId := 0
  curTable := .none
  curIndex := 0
  pdoCount := 0
  srcPdo := Objs7.zero
  powerOption := 0
  ppsV := 0
  ppsI := 0
  selected := 0
  ppssV := 0
  ppssI := 0
  ppssFlags := 0

/-- PL state after power-on reset: all 0. -/
def Pl.reset : Pl where
  ready := false
  readyStatus := .notAvailable
  readyMv := 0
  readyMa := 0
  waitSrcCap := false
  waitPsRdy := false
  reqPending := false
  srcCapRetry := 0
  tPoll := 0
  tSrcCap := 0
  tPsRdy := 0
  tPpsReq := 0
  ppsVNext := 0
  ppsINext := 0

/-- The environment the model starts with. "What reset does not define is the environment" (R351): these values are
the model's (DESIGN CHOICE, log 13), and the transport's answers are free. -/
def Env.reset : Env where
  now := 0
  alert := false
  answers := []
  oracle := 0
  calls := []
  log := []

/-- The machine right after power-on reset. -/
def State.reset : State where
  fr := Fr.reset
  pe := Pe.reset
  pl := Pl.reset
  env := Env.reset
  port := ⟨[], []⟩
  params := defaultParams

end Sys2Proof.Machine
end

