-- ==== Sys2Proof/Machine/Ops.lean ====
section
/-! DEFINITION. The named operations over the block's registers, the transport, the clock, the log and the command
port. Every transport primitive goes through `State.issue`, every "else return E" of the spec's pseudocode through
`State.attempt`, and every status a command returns through `State.replySt`. -/

namespace Sys2Proof.Machine

open Sys2Proof.Config

/-! ## Codings (10_state.md R23 to R25, R32, R38; 60_exceptions.md R320) -/

/-- The number of a status code (60_exceptions.md R320). -/
def Status.code : Status → Byte
  | .ok => 0
  | .busy => 1
  | .readError => 2
  | .writeError => 3
  | .deviceNotFound => 4
  | .notInitialised => 5
  | .badCommand => 6

/-- The number of a line level (10_state.md R24). -/
def levelCode : LineLevel → Byte
  | .opn => 0
  | .rdUsb => 1
  | .rd1A5 => 2
  | .rd3A0 => 3

/-- The number of a ready status (10_state.md R38). -/
def ReadyStatus.code : ReadyStatus → Byte
  | .notAvailable => 0
  | .typical => 1
  | .pps => 2

/-- A `bool` result: "a byte 0 or 1" (30_encoding.md R111). -/
def boolByte : Bool → Byte
  | true => 1
  | false => 0

/-! ## Register files (10_state.md R29, R33) -/

/-- Register i of a file of seven; there is no register above 6, and a read of one gives 0 (log 19). -/
def Objs7.get (o : Objs7) : Nat → Obj
  | 0 => o.o0
  | 1 => o.o1
  | 2 => o.o2
  | 3 => o.o3
  | 4 => o.o4
  | 5 => o.o5
  | 6 => o.o6
  | _ => 0

/-- The seven registers in order. -/
def Objs7.toList (o : Objs7) : List Obj := [o.o0, o.o1, o.o2, o.o3, o.o4, o.o5, o.o6]

/-- A file loaded from a list, the registers the list does not reach set to 0 (R29, R33). -/
def Objs7.ofList (l : List Obj) : Objs7 where
  o0 := l.getD 0 0
  o1 := l.getD 1 0
  o2 := l.getD 2 0
  o3 := l.getD 3 0
  o4 := l.getD 4 0
  o5 := l.getD 5 0
  o6 := l.getD 6 0

/-- The first n objects of a list, an absent one read as 0 (41_codec_rx.md R170: "absent objects read 0"). -/
def present : Nat → List Obj → List Obj
  | 0, _ => []
  | n + 1, [] => 0 :: present n []
  | n + 1, o :: os => o :: present n os

/-! ## The transport (20_memory.md R61 to R66) -/

/-- The status a failed transaction gives (20_memory.md R61). -/
def errorStatus : TransportError → Status
  | .read => .readError
  | .write => .writeError

/-- The direction a failing primitive fails in (R62 to R66): the primitives that only read fail with ReadError, the
transmit FIFO write with WriteError, and the others with whichever of their transactions failed (log 16). -/
def XCall.errorOf (c : XCall) (e : TransportError) : TransportError :=
  match c with
  | .readId | .readStatus | .rxRead _ => .read
  | .txWrite _ => .write
  | _ => e

/-- The n bytes that `X.rx_read(n)` returns as the k-th transaction: the ones the environment gives, and free bytes
where it gives fewer (R66). The third argument is the number of the first of them. -/
def fillBytes (k : Nat) : Nat → Nat → List Byte → List Byte
  | 0, _, _ => []
  | n + 1, i, b :: bs => b :: fillBytes k n (i + 1) bs
  | n + 1, i, [] => freeByte k i :: fillBytes k n (i + 1) []

/-- The environment's next answer: the one State lists, else a free one (log 2). -/
def Env.nextAnswer (e : Env) : XAnswer :=
  match e.answers with
  | a :: _ => a
  | [] => freeAnswer e.oracle

/-- An answer as the primitive c, the k-th transaction, receives it. -/
def XCall.receive (c : XCall) (k : Nat) (a : XAnswer) : XAnswer :=
  { a with
    fail := a.fail.map c.errorOf
    bytes := match c with
      | .rxRead n => fillBytes k n 0 a.bytes
      | _ => a.bytes }

/-- One transport primitive: the environment answers it, the clock moves as the answer says, and the call is
recorded in order (20_memory.md R71). No block register changes. -/
def State.issue (s : State) (c : XCall) : XAnswer × State :=
  let a := c.receive s.env.oracle s.env.nextAnswer
  (a, { s with env := { s.env with
          now := s.env.now + a.dt
          answers := s.env.answers.tail
          oracle := s.env.oracle + 1
          calls := s.env.calls ++ [⟨c, a.fail⟩] } })

/-- A primitive followed by "else return E" (40_framer.md): on a failure the operation stops there with the failing
direction's status, what it has written staying written (60_exceptions.md R330). -/
def State.attempt {α : Type} (s : State) (c : XCall) (onFail : Status → State → α)
    (k : XAnswer → State → α) : α :=
  match (s.issue c).1.fail with
  | some e => onFail (errorStatus e) (s.issue c).2
  | none => k (s.issue c).1 (s.issue c).2

/-- `delay_ms(n)`, which "returns after at least n milliseconds" (00_scope.md R15; 60_exceptions.md R333, R335): the
clock moves by n, and what the delay takes beyond that is part of the next answer or stimulus (log 3). -/
def State.delay (s : State) (n : Nat) : State :=
  { s with env := { s.env with
      now := s.env.now + BitVec.ofNat 16 n
      calls := s.env.calls ++ [⟨.delayMs n, none⟩] } }

/-- `log(kind, h?, objs?)` (44_policy.md R304). -/
def State.log (s : State) (kind : LogKind) (header : Option Half) (objs : List Obj) : State :=
  { s with env := { s.env with log := s.env.log ++ [⟨s.env.now, kind, header, objs⟩] } }

/-! ## What the calls have made of the transceiver (20_memory.md R62, R66; 60_exceptions.md R340; log 17) -/

/-- The bytes pushed to the transmit FIFO so far, oldest first. -/
def txPushed : List Issued → List Byte
  | [] => []
  | ⟨.txWrite bytes, none⟩ :: rest => bytes ++ txPushed rest
  | _ :: rest => txPushed rest

/-- The power level last set: Off after a reset of the transceiver, then what `X.power` asks for (R340). -/
def powerSet (start : PowerLevel) : List Issued → PowerLevel
  | [] => start
  | ⟨.swReset, none⟩ :: rest => powerSet .off rest
  | ⟨.power l, none⟩ :: rest => powerSet l rest
  | _ :: rest => powerSet start rest

/-- The pin last tied to the transmitter, the receiver and the automatic GoodCRC (R66): none after a reset of the
transceiver "to defaults" (R62; 10_state.md R25). -/
def ccTied (start : CcSel) : List Issued → CcSel
  | [] => start
  | ⟨.swReset, none⟩ :: rest => ccTied .none rest
  | ⟨.setCc sel, none⟩ :: rest => ccTied sel rest
  | ⟨.teardown, none⟩ :: rest => ccTied .none rest
  | _ :: rest => ccTied start rest

/-! ## The command port (30_encoding.md R110) -/

/-- The block answers the command with a byte string. -/
def State.reply (s : State) (bytes : List Byte) : State :=
  { s with port := { s.port with reply := bytes } }

/-- The block answers with a status byte: this is all that "taking an exception" is here (60_exceptions.md R320,
R330). -/
def State.replySt (s : State) (st : Status) : State := s.reply [st.code]

/-- The host brings its next command: the clock has moved, the alert line is what it is, and the transport will
answer as the stimulus says (00_scope.md R11). -/
def State.accept (s : State) (x : Stimulus) (rest : List Stimulus) : State :=
  { s with
    env := { s.env with
      now := s.env.now + x.dt
      alert := x.alert
      answers := x.answers }
    port := { s.port with inbox := rest } }

/-- Why a byte string that is no instruction is refused (log 6, log 9). -/
def refusalOf : DecodeError → Refusal
  | .truncated => .truncatedInput
  | .notTransmitted => .notATransmittedHeader

/-- The stimulus that carries a word of the opcode table, in the environment as it stands; a message's type is written
with the machine's own codes (log 7). -/
def State.tableStimulus (s : State) (nbits w : Nat) : Stimulus where
  overlaps := false
  dt := 0
  alert := s.env.alert
  answers := s.env.answers
  fmt := tableFormat nbits w
  bytes := wireBytes s.params.codes (tableFormat nbits w) (tableBytes nbits w)

end Sys2Proof.Machine
end

