-- ==== Sys2Proof/Machine/Flags.lean ====
section
/-! DEFINITION. The block's flags: the event sets (spec/30_encoding.md R112), the deadlines (spec/44_policy.md R274)
and the policy state read off the wait flags (spec/10_state.md R43). -/

namespace Sys2Proof.Machine

open Sys2Proof.Config

/-- A set of FR events (30_encoding.md R112). -/
structure FrEvents where
  attached    : Bool
  detached    : Bool
  rxFrame     : Bool
  goodCrcSent : Bool
  deriving DecidableEq, Repr

/-- No FR event. -/
def FrEvents.empty : FrEvents := ⟨false, false, false, false⟩

/-- The FR event byte: bit 0 Attached, bit 1 Detached, bit 2 RxFrame, bit 3 GoodCrcSent (R112). -/
def FrEvents.byte (e : FrEvents) : Byte :=
  boolByte e.attached ||| (boolByte e.detached <<< 1) ||| (boolByte e.rxFrame <<< 2)
    ||| (boolByte e.goodCrcSent <<< 3)

/-- A set of PE events (30_encoding.md R112). -/
structure PeEvents where
  sourceCapReceived : Bool
  psRdy             : Bool
  accept            : Bool
  ppsStatusReceived : Bool
  rejected          : Bool
  deriving DecidableEq, Repr

/-- No PE event. -/
def PeEvents.empty : PeEvents := ⟨false, false, false, false, false⟩

/-- The PE event byte: bit 0 SourceCapReceived, bit 1 PsRdy, bit 2 Accept, bit 3 PpsStatusReceived, bit 4 Rejected
(R112). -/
def PeEvents.byte (e : PeEvents) : Byte :=
  boolByte e.sourceCapReceived ||| (boolByte e.psRdy <<< 1) ||| (boolByte e.accept <<< 2)
    ||| (boolByte e.ppsStatusReceived <<< 3) ||| (boolByte e.rejected <<< 4)

/-- `elapsed(T) = (now() - T) mod 2^16` (44_policy.md R274). -/
def State.elapsed (s : State) (t : Half) : Nat := (s.env.now - t).toNat

/-- `worst(a, b)`: b if a = OK, else a (44_policy.md R273). -/
def worst (a b : Status) : Status :=
  match a with
  | .ok => b
  | _ => a

/-- PL's policy states (10_state.md R43). -/
inductive PolicyState where
  | notAvailable
  | waitingSourceCap
  | waitingPsReady
  | typical
  | pps
  deriving DecidableEq, Repr

/-- POLICY_STATE, the derived view of PL state (10_state.md R43). -/
def Pl.policyState (p : Pl) : PolicyState :=
  if p.waitPsRdy then .waitingPsReady
  else if p.waitSrcCap then .waitingSourceCap
  else match p.readyStatus with
    | .notAvailable => .notAvailable
    | .typical => .typical
    | .pps => .pps

end Sys2Proof.Machine
end

