-- ==== Sys2Proof/Machine/Operands.lean ====
section
/-! DEFINITION. The operands of the rules: the data objects' fields (spec/30_encoding.md R100 to R106), the conversions
at the application boundary (R113) and the received frame's registers. -/

namespace Sys2Proof.Machine

open Sys2Proof.Config

/-! ## Source capability words (30_encoding.md R100 to R104) -/

/-- The type of a capability: bits [31:30] (R100). -/
inductive PdoType where
  | fixed
  | battery
  | variable
  | augmented
  deriving DecidableEq, Repr

/-- The number of a capability type (R100). -/
def PdoType.code : PdoType → Byte
  | .fixed => 0
  | .battery => 1
  | .variable => 2
  | .augmented => 3

/-- The decoded view of a capability, in the type's own units (R100). -/
structure PdoInfo where
  typ  : PdoType
  minV : Nat
  maxV : Nat
  maxI : Nat
  maxP : Nat
  deriving DecidableEq, Repr

/-- `v[hi:lo]` of an object, as a number (00_scope.md R13), given its low bit and its width. -/
def field (w : Obj) (lo width : Nat) : Nat := (w.extractLsb' lo width).toNat

/-- `w[31:30]` (R100). -/
def pdoType (w : Obj) : PdoType :=
  match field w 30 2 with
  | 0 => .fixed
  | 1 => .battery
  | 2 => .variable
  | _ => .augmented

/-- `pdo_info(w)` (R100 to R104): a field the type does not carry reads 0. -/
def pdoInfo (w : Obj) : PdoInfo :=
  match pdoType w with
  | .fixed => ⟨.fixed, 0, field w 10 10, field w 0 10, 0⟩
  | .battery => ⟨.battery, field w 10 10, field w 20 10, 0, field w 0 10⟩
  | .variable => ⟨.variable, field w 10 10, field w 20 10, field w 0 10, 0⟩
  | .augmented => ⟨.augmented, field w 8 8, field w 17 8, field w 0 7, 0⟩

/-- The live capability list: SRC_PDO[0 .. PDO_COUNT-1] (10_state.md R33). -/
def Pe.live (p : Pe) : List Obj := p.srcPdo.toList.take p.pdoCount.toNat

/-! ## The Request object (30_encoding.md R105, R106) -/

/-- The object of a Request for the selected capability: an Augmented one asks for the PPS target, any other one for
all the source offers. -/
def Pe.requestObject (p : Pe) : Obj :=
  let w := p.srcPdo.get p.selected.toNat
  let pos : Obj := p.selected.setWidth 32 + 1
  if w.extractLsb' 30 2 = 3 then
    (pos <<< 28) + ((p.ppsV.extractLsb' 0 11).setWidth 32 <<< 9) + (p.ppsI.extractLsb' 0 7).setWidth 32
  else
    (pos <<< 28) + ((w.extractLsb' 0 10).setWidth 32 <<< 10) + (w.extractLsb' 0 10).setWidth 32

/-! ## Conversions (30_encoding.md R113) -/

/-- `to_pps(mv, ma)`: 20 mV and 50 mA units, both rounded down. -/
def toPps (mv ma : Half) : Nat × Nat := (mv.toNat / 20, ma.toNat / 50)

/-- `from_pps(v, i)`: millivolts and milliamperes. -/
def fromPps (v : Half) (i : Byte) : BitVec 32 × BitVec 32 := (v.setWidth 32 * 20, i.setWidth 32 * 50)

/-- `from_pdo(max_v, max_i)` for a capability that is not Augmented. -/
def fromPdo (maxV maxI : Nat) : BitVec 32 × BitVec 32 :=
  (BitVec.ofNat 32 (maxV * 50), BitVec.ofNat 32 (maxI * 10))

/-! ## Byte strings of the receive FIFO (30_encoding.md R88) -/

/-- Object i of a payload: bytes 4i to 4i+3, the lowest first. -/
def objAt (p : List Byte) (i : Nat) : Obj :=
  ofLe32 (p.getD (4 * i) 0) (p.getD (4 * i + 1) 0) (p.getD (4 * i + 2) 0) (p.getD (4 * i + 3) 0)

/-- What RX_OBJ[i] is written with: the payload's object below the count, 0 at or above it (40_framer.md R138). -/
def rxObjAt (p : List Byte) (count i : Nat) : Obj := if i < count then objAt p i else 0

end Sys2Proof.Machine
end

