-- ==== Sys2Proof/Machine/Negotiation.lean ====
section
/-! DEFINITION. PE's negotiation state (spec/43_negotiation.md): the capability evaluator, the operations that change the
target, the two resets, the accessors, and the meanings of their commands. -/

namespace Sys2Proof.Machine

open Sys2Proof.Config

/-! ## The evaluator (R242 to R244) -/

/-- The power-option row a 3-bit option names (R243). A table shorter than the eight rows of R243 has no such row;
one that no capability with a positive metric meets stands in (log 18). -/
def optionRow (p : Params) (o : BitVec 3) : PowerRow := p.powerOptions.getD o.toNat ⟨0, true, true⟩

/-- The coarse power metric (R242): each used field reduced by a right shift of 2, an unused one counting 1. -/
def powerMetric (row : PowerRow) (i : PdoInfo) : Nat :=
  (if row.useV then i.maxV / 4 else 1) * (if row.useI then i.maxI / 4 else 1)

/-- An Augmented capability that brackets the target (V, I), in 20 mV and 50 mA (R244). -/
def brackets (v i : Nat) (p : PdoInfo) : Bool :=
  p.typ == .augmented && 5 * p.minV ≤ v && v ≤ 5 * p.maxV && i ≤ p.maxI

/-- The lowest index of a capability that brackets the target; n is the index of the list's head. -/
def firstBracketing (v i : Nat) : Nat → List Obj → Option Nat
  | _, [] => none
  | n, w :: ws => if brackets v i (pdoInfo w) then some n else firstBracketing v i (n + 1) ws

/-- A capability that is not Augmented and is within the option's limit (R243). -/
def withinLimit (row : PowerRow) (p : PdoInfo) : Bool :=
  p.typ != .augmented && powerMetric row p ≤ row.limit

/-- The highest index of a capability within the limit, or sel if there is none; n is the index of the list's
head. -/
def lastWithin (row : PowerRow) : Nat → Nat → List Obj → Nat
  | sel, _, [] => sel
  | sel, n, w :: ws => lastWithin row (if withinLimit row (pdoInfo w) then n else sel) (n + 1) ws

/-- `evaluate(V, I)` (R244): the first Augmented capability that brackets the target, unless V = 0; else the last
capability within the option's limit, else index 0. -/
def Pe.evaluate (pe : Pe) (p : Params) (v : Half) (i : Byte) : Bool × Nat :=
  match (if v = 0 then none else firstBracketing v.toNat i.toNat 0 pe.live) with
  | some n => (true, n)
  | none => (false, lastWithin (optionRow p pe.powerOption) 0 0 pe.live)

/-! ## The target operations (R241, R246 to R248) -/

/-- "Changed" (R241): the Request object differs. -/
def requestChanged (before after : Pe) : Bool := after.requestObject != before.requestObject

/-- The target after PE_SET_POWER_OPTION (R246), before SELECTED is written. -/
def Pe.withOption (pe : Pe) (o : Byte) : Pe :=
  { pe with powerOption := o.extractLsb' 0 3, ppsV := 0, ppsI := 0 }

/-- PE_SET_POWER_OPTION (R246). -/
def Pe.setPowerOption (pe : Pe) (p : Params) (o : Byte) : Bool × Pe :=
  let after := { pe.withOption o with selected := BitVec.ofNat 3 ((pe.withOption o).evaluate p 0 0).2 }
  (requestChanged pe after, after)

/-- PE_SET_PPS (R247). -/
def Pe.setPps (pe : Pe) (p : Params) (v : Half) (i : Byte) (strict : Bool) : Bool × Pe :=
  let r := pe.evaluate p v i
  if strict = true ∧ r.1 = false then (false, pe)
  else
    let after := { pe with ppsV := v, ppsI := i, selected := BitVec.ofNat 3 r.2 }
    (requestChanged pe after, after)

/-- PE_SELECT_POWER (R248). -/
def Pe.selectPower (pe : Pe) (k : Byte) : Bool × Pe :=
  if pe.pdoCount.toNat ≤ k.toNat then (false, pe)
  else
    let after := { pe with selected := k.extractLsb' 0 3 }
    (requestChanged pe after, after)

/-! ## The accessors and the resets (R249 to R253, R257) -/

/-- PE_GET_POWER_INFO (R249): the decoded capability, when the index is in the live list. -/
def Pe.powerInfo (pe : Pe) (k : Nat) : Option PdoInfo :=
  if k < pe.pdoCount.toNat then some (pdoInfo (pe.srcPdo.get k)) else none

/-- PE_RESET (R251): message id and dispatch state cleared, nothing else. -/
def Pe.clear (pe : Pe) : Pe := { pe with msgId := 0, curTable := .none, curIndex := 0 }

/-! ## The commands -/

/-- PE_INIT, op 0x20 (R252): no result. -/
def execPeInit (s : State) : Host.Outcome State Fault Refusal :=
  .next (State.reply { s with pe := Pe.reset } [])

/-- PE_RESET, op 0x21 (R251): no result. -/
def execPeReset (s : State) : Host.Outcome State Fault Refusal :=
  .next (State.reply { s with pe := s.pe.clear } [])

/-- PE_EVALUATE, op 0x24 (R244): qualified and the index; nothing is written. -/
def execPeEvaluate (v : Half) (i : Byte) (s : State) : Host.Outcome State Fault Refusal :=
  let r := s.pe.evaluate s.params v i
  .next (s.reply [boolByte r.1, BitVec.ofNat 8 r.2])

/-- PE_SET_POWER_OPTION, op 0x28 (R246). -/
def execPeSetPowerOption (option : Byte) (s : State) : Host.Outcome State Fault Refusal :=
  let r := s.pe.setPowerOption s.params option
  .next (State.reply { s with pe := r.2 } [boolByte r.1])

/-- PE_SELECT_POWER, op 0x29 (R248). -/
def execPeSelectPower (index : Byte) (s : State) : Host.Outcome State Fault Refusal :=
  let r := s.pe.selectPower index
  .next (State.reply { s with pe := r.2 } [boolByte r.1])

/-- PE_SET_PPS, op 0x2A (R247): strict is any non-zero byte. -/
def execPeSetPps (v : Half) (i strict : Byte) (s : State) : Host.Outcome State Fault Refusal :=
  let r := s.pe.setPps s.params v i (strict != 0)
  .next (State.reply { s with pe := r.2 } [boolByte r.1])

/-- The result bytes of PE_GET_POWER_INFO (R249): valid, type, and four 16-bit fields; all 0 when not valid. -/
def powerInfoBytes : Option PdoInfo → List Byte
  | some i => [1, i.typ.code] ++ le16 (BitVec.ofNat 16 i.minV) ++ le16 (BitVec.ofNat 16 i.maxV)
      ++ le16 (BitVec.ofNat 16 i.maxI) ++ le16 (BitVec.ofNat 16 i.maxP)
  | none => List.replicate 10 0

/-- PE_GET_POWER_INFO, op 0x2B (R249). -/
def execPeGetPowerInfo (index : Byte) (s : State) : Host.Outcome State Fault Refusal :=
  .next (s.reply (powerInfoBytes (s.pe.powerInfo index.toNat)))

/-- PE_GET_SELECTED, op 0x2C (R250). -/
def execPeGetSelected (s : State) : Host.Outcome State Fault Refusal :=
  .next (s.reply [s.pe.selected.setWidth 8])

/-- PE_GET_PPS_STATUS, op 0x2D (R253). -/
def execPeGetPpsStatus (s : State) : Host.Outcome State Fault Refusal :=
  .next (s.reply (le16 s.pe.ppssV ++ [s.pe.ppssI, s.pe.ppssFlags]))

/-- PE_GET_TARGET, op 0x2E (R257). -/
def execPeGetTarget (s : State) : Host.Outcome State Fault Refusal :=
  .next (s.reply ([s.pe.powerOption.setWidth 8] ++ le16 s.pe.ppsV ++ [s.pe.ppsI]))

end Sys2Proof.Machine
end

