-- ==== Sys2Proof/Machine/Tables.lean ====
section
/-! DEFINITION. The three dispatch tables (spec/30_encoding.md R91 to R97): which handler and which responder an entry
has. They are constants (spec/20_memory.md R73). -/

namespace Sys2Proof.Machine

open Sys2Proof.Config

/-- The handlers (30_encoding.md R93). -/
inductive Handler where
  | goodCrc
  | accept
  | reject
  | psRdy
  | sourceCap
  | ppsStatus
  | nop
  deriving DecidableEq, Repr

/-- The responders (30_encoding.md R93). -/
inductive Responder where
  | sinkCap
  | sinkCapExt
  | reject
  | accept
  | notSupported
  | request
  deriving DecidableEq, Repr

/-- The class of a received header (R91): EXT before DATA before CTRL. -/
def tableOf (ext : BitVec 1) (count : Nat) : Table :=
  if ext = 1 then .ext else if count = 0 then .ctrl else .data

/-- LAST, the index of a table's catch-all (R92). -/
def lastIndex : Table → Nat
  | .none => 0
  | .ctrl => 23
  | .data => 16
  | .ext => 16

/-- `index = min(type, LAST)` (R92). -/
def clampIndex (t : Table) (typ : BitVec 5) : BitVec 5 :=
  BitVec.ofNat 5 (min typ.toNat (lastIndex t))

/-- The MSG_TYPE codes of a table (00_scope.md R9). -/
def tableCodes (p : Params) : Table → List (BitVec 5)
  | .none => []
  | .ctrl => p.codes.ctrl
  | .data => p.codes.data
  | .ext => p.codes.ext

/-- The type code, and so the index, of row k of a table (R95 to R97); the catch-all's row is its index. -/
def typeCode (p : Params) (t : Table) (row : BitVec 5) : BitVec 5 := codeIn (tableCodes p t) row

/-- The row of R95 to R97 that an index of a table stands for. -/
def codeRow (p : Params) (t : Table) (index : BitVec 5) : BitVec 5 := rowIn (tableCodes p t) index

/-- The handler of a row (R95 to R97), if it has one. -/
def handlerOf (t : Table) (row : BitVec 5) : Option Handler :=
  match t, row.toNat with
  | .ctrl, 1 => some .goodCrc
  | .ctrl, 3 => some .accept
  | .ctrl, 4 => some .reject
  | .ctrl, 6 => some .psRdy
  | .data, 1 => some .sourceCap
  | .data, 3 => some .nop
  | .data, 15 => some .nop
  | .ext, 12 => some .ppsStatus
  | _, _ => none

/-- The responder of a row (R95 to R97), if it has one: r_not_supported for every entry with no handler and no
other responder (R94), and for Vendor_Defined. -/
def responderOf (t : Table) (row : BitVec 5) : Option Responder :=
  match t, row.toNat with
  | .none, _ => none
  | .ctrl, 1 => none
  | .ctrl, 3 => none
  | .ctrl, 4 => none
  | .ctrl, 6 => none
  | .ctrl, 8 => some .sinkCap
  | .ctrl, 9 => some .reject
  | .ctrl, 10 => some .reject
  | .ctrl, 11 => some .reject
  | .ctrl, 13 => some .accept
  | .ctrl, 22 => some .sinkCapExt
  | .data, 1 => some .request
  | .data, 3 => none
  | .ext, 12 => none
  | _, _ => some .notSupported

end Sys2Proof.Machine
end

