-- ==== Sys2Proof/Machine/CodecTx.lean ====
section
/-! DEFINITION. PE's transmit side (spec/42_codec_tx.md): the eight builders, PE_RESPOND and the three create commands.
A builder is a function of PE state and the parameters, and writes nothing (R220). -/

namespace Sys2Proof.Machine

open Sys2Proof.Config

/-- A message as a builder returns it: its header and its objects. -/
structure Frame where
  header : Half
  objs   : List Obj
  deriving DecidableEq, Repr

/-- The header of every built message (R211): the type code of the message's row, SPEC_REV, the present MSG_ID, bits 5
and 8 zero. -/
def Pe.header (pe : Pe) (p : Params) (t : Table) (row : BitVec 5) (count : BitVec 3) (ext : BitVec 1) : Half :=
  genHeader (typeCode p t row) specRev pe.msgId count ext

/-- BUILD_SINK_CAP (R212). -/
def Pe.buildSinkCap (pe : Pe) (p : Params) : Frame := ⟨pe.header p .data 4 1 0, [sinkPdo]⟩

/-- BUILD_SINK_CAP_EXT (R213): the extended header, then the 22 bytes of the block, packed into six objects (30_encoding.md
R109, R87). -/
def Pe.buildSinkCapExt (pe : Pe) (p : Params) : Frame :=
  ⟨pe.header p .ext 15 6 1, present 6 (packObjs (le16 (genExtHeader p.sinkCapExtSize) ++ p.sinkCapExtBlock))⟩

/-- BUILD_REJECT (R214). -/
def Pe.buildReject (pe : Pe) (p : Params) : Frame := ⟨pe.header p .ctrl 4 0 0, []⟩

/-- BUILD_ACCEPT (R215). -/
def Pe.buildAccept (pe : Pe) (p : Params) : Frame := ⟨pe.header p .ctrl 3 0 0, []⟩

/-- BUILD_NOT_SUPPORTED (R216). -/
def Pe.buildNotSupported (pe : Pe) (p : Params) : Frame := ⟨pe.header p .ctrl 16 0 0, []⟩

/-- BUILD_REQUEST (R217). -/
def Pe.buildRequest (pe : Pe) (p : Params) : Frame := ⟨pe.header p .data 2 1 0, [pe.requestObject]⟩

/-- The Get_Source_Cap message (R218). -/
def Pe.buildGetSourceCap (pe : Pe) (p : Params) : Frame := ⟨pe.header p .ctrl 7 0 0, []⟩

/-- The Get_PPS_Status message (R219). -/
def Pe.buildGetPpsStatus (pe : Pe) (p : Params) : Frame := ⟨pe.header p .ctrl 20 0 0, []⟩

/-- What a responder builds (R221). -/
def Pe.runResponder (pe : Pe) (p : Params) : Responder → Frame
  | .sinkCap => pe.buildSinkCap p
  | .sinkCapExt => pe.buildSinkCapExt p
  | .reject => pe.buildReject p
  | .accept => pe.buildAccept p
  | .notSupported => pe.buildNotSupported p
  | .request => pe.buildRequest p

/-- PE_RESPOND (R210): the reply the current dispatch entry calls for, if any. The current message stays. -/
def Pe.respond (pe : Pe) (p : Params) : Option Frame :=
  (responderOf pe.curTable (codeRow p pe.curTable pe.curIndex)).map (pe.runResponder p)

/-- A message as result bytes: header, then objects. -/
def Frame.bytes (f : Frame) : List Byte := le16 f.header ++ objsBytes f.objs

/-- The result bytes of PE_RESPOND: the boolean, and the message when it is true (R210). -/
def respondBytes : Option Frame → List Byte
  | some f => 1 :: f.bytes
  | none => [0]

/-! ## The commands -/

/-- PE_RESPOND, op 0x23 (R210). -/
def execPeRespond (s : State) : Host.Outcome State Fault Refusal :=
  .next (s.reply (respondBytes (s.pe.respond s.params)))

/-- PE_CREATE_GET_SRC_CAP, op 0x25 (R218). -/
def execPeCreateGetSrcCap (s : State) : Host.Outcome State Fault Refusal :=
  .next (s.reply (s.pe.buildGetSourceCap s.params).bytes)

/-- PE_CREATE_GET_PPS_STATUS, op 0x26 (R219). -/
def execPeCreateGetPpsStatus (s : State) : Host.Outcome State Fault Refusal :=
  .next (s.reply (s.pe.buildGetPpsStatus s.params).bytes)

/-- PE_CREATE_REQUEST, op 0x27 (R217). -/
def execPeCreateRequest (s : State) : Host.Outcome State Fault Refusal :=
  .next (s.reply (s.pe.buildRequest s.params).bytes)

/-! ## The transmitted messages (30_encoding.md R99)

Each is its builder, run by itself; the message is the answer (log 9). The id field of the word is an outcome, not an
operand: the message carries the present MSG_ID (R211). -/

/-- Accept (R215). -/
def execTxAccept (_id : BitVec 3) (s : State) : Host.Outcome State Fault Refusal :=
  .next (s.reply (s.pe.buildAccept s.params).bytes)

/-- Reject (R214). -/
def execTxReject (_id : BitVec 3) (s : State) : Host.Outcome State Fault Refusal :=
  .next (s.reply (s.pe.buildReject s.params).bytes)

/-- Get_Source_Cap (R218). -/
def execTxGetSourceCap (_id : BitVec 3) (s : State) : Host.Outcome State Fault Refusal :=
  .next (s.reply (s.pe.buildGetSourceCap s.params).bytes)

/-- Not_Supported (R216). -/
def execTxNotSupported (_id : BitVec 3) (s : State) : Host.Outcome State Fault Refusal :=
  .next (s.reply (s.pe.buildNotSupported s.params).bytes)

/-- Get_PPS_Status (R219). -/
def execTxGetPpsStatus (_id : BitVec 3) (s : State) : Host.Outcome State Fault Refusal :=
  .next (s.reply (s.pe.buildGetPpsStatus s.params).bytes)

/-- Request (R217). -/
def execTxRequest (_id : BitVec 3) (s : State) : Host.Outcome State Fault Refusal :=
  .next (s.reply (s.pe.buildRequest s.params).bytes)

/-- Sink_Capabilities (R212). -/
def execTxSinkCapabilities (_id : BitVec 3) (s : State) : Host.Outcome State Fault Refusal :=
  .next (s.reply (s.pe.buildSinkCap s.params).bytes)

/-- Sink_Capabilities_Extended (R213). -/
def execTxSinkCapabilitiesExtended (_id : BitVec 3) (s : State) : Host.Outcome State Fault Refusal :=
  .next (s.reply (s.pe.buildSinkCapExt s.params).bytes)

end Sys2Proof.Machine
end

