-- ==== Sys2Proof/Machine/CodecRx.lean ====
section
/-! DEFINITION. PE's receive side (spec/41_codec_rx.md): the handlers, PE_HANDLE_MSG, and the meaning of every dispatch
entry as a received message of its own. What the entry's responder builds later is CodecTx.lean's. -/

namespace Sys2Proof.Machine

open Sys2Proof.Config

/-! ## The handlers (R170) -/

/-- CUR_TABLE and CUR_INDEX written, "on every call, before the handler runs, whatever the entry" (R172). -/
def Pe.setCurrent (pe : Pe) (t : Table) (index : BitVec 5) : Pe := { pe with curTable := t, curIndex := index }

/-- h_good_crc (R176): the message id advances, modulo 8. -/
def Pe.goodCrc (pe : Pe) : PeEvents × Pe := (PeEvents.empty, { pe with msgId := pe.msgId + 1 })

/-- h_accept (R177). -/
def Pe.accepted (pe : Pe) : PeEvents × Pe := ({ PeEvents.empty with accept := true }, pe)

/-- h_reject (R178): the event is REJECT_POLICY's. -/
def Pe.rejectedBy (pe : Pe) (policy : RejectPolicy) : PeEvents × Pe :=
  match policy with
  | .asPsRdy => ({ PeEvents.empty with psRdy := true }, pe)
  | .distinct => ({ PeEvents.empty with rejected := true }, pe)

/-- h_ps_rdy (R179). -/
def Pe.psReady (pe : Pe) : PeEvents × Pe := ({ PeEvents.empty with psRdy := true }, pe)

/-- The list h_source_cap stores (R174, R186): the message's objects, and 0 above them. -/
def Pe.withSource (pe : Pe) (objs : List Obj) : Pe :=
  { pe with srcPdo := Objs7.ofList objs, pdoCount := BitVec.ofNat 3 objs.length }

/-- h_source_cap (R174, R186): the list replaced, then evaluated against the target. -/
def Pe.sourceCap (pe : Pe) (p : Params) (objs : List Obj) : PeEvents × Pe :=
  let stored := pe.withSource objs
  ({ PeEvents.empty with sourceCapReceived := true },
   { stored with selected := BitVec.ofNat 3 (stored.evaluate p stored.ppsV stored.ppsI).2 })

/-- h_pps_status (R191; layout 30_encoding.md R108); an absent object reads 0. -/
def Pe.ppsStatus (pe : Pe) (objs : List Obj) : PeEvents × Pe :=
  ({ PeEvents.empty with ppsStatusReceived := true },
   { pe with
     ppssV := (objs.getD 0 0).extractLsb' 16 16
     ppssI := (objs.getD 1 0).extractLsb' 0 8
     ppssFlags := (objs.getD 1 0).extractLsb' 8 8 })

/-- h_nop, and an entry with no handler: nothing (R170). -/
def Pe.noHandler (pe : Pe) : PeEvents × Pe := (PeEvents.empty, pe)

/-- The handler of an entry, run on the objects (R170). -/
def Pe.runHandler (pe : Pe) (p : Params) (objs : List Obj) : Option Handler → PeEvents × Pe
  | some .goodCrc => pe.goodCrc
  | some .accept => pe.accepted
  | some .reject => pe.rejectedBy p.rejectPolicy
  | some .psRdy => pe.psReady
  | some .sourceCap => pe.sourceCap p objs
  | some .ppsStatus => pe.ppsStatus objs
  | some .nop => pe.noHandler
  | none => pe.noHandler

/-- PE_HANDLE_MSG (R170): the entry looked up, made current, and its handler run on the objects the count announces,
"absent objects read 0". -/
def Pe.handleMsg (pe : Pe) (p : Params) (h : Half) (objs : List Obj) : PeEvents × Pe :=
  let count := objectCount h
  let t := tableOf (h.extractLsb' 15 1) count
  let index := clampIndex t (h.extractLsb' 0 5)
  (pe.setCurrent t index).runHandler p (present count objs) (handlerOf t (codeRow p t index))

/-- PE_HANDLE_MSG, op 0x22 (R170): the event byte. -/
def execPeHandleMsg (header : Half) (objs : List Obj) (s : State) : Host.Outcome State Fault Refusal :=
  let r := s.pe.handleMsg s.params header objs
  .next (State.reply { s with pe := r.2 } [r.1.byte])

/-! ## The received messages

Each takes the step PE_HANDLE_MSG takes on its header and objects and answers the same event byte (log 8). The numbers
are the rows of 30_encoding.md R95 to R97. -/

/-- The end of a received message's step: PE as the handler left it, and the event byte. -/
def State.received (s : State) (r : PeEvents × Pe) : Host.Outcome State Fault Refusal :=
  .next (State.reply { s with pe := r.2 } [r.1.byte])

/-- PE with row k of a table as the current message. -/
def State.receiving (s : State) (t : Table) (row : BitVec 5) : Pe := s.pe.setCurrent t (typeCode s.params t row)

/-- An entry with no handler: only the current message changes (R411 to R450). -/
def State.receivedPlain (s : State) (t : Table) (row : BitVec 5) : Host.Outcome State Fault Refusal :=
  s.received (s.receiving t row).noHandler

/-- C_Reserved0, CTRL 0 (R410): no handler, responder r_not_supported. -/
def execRxCReserved0 (_f : RxFields) (s : State) : Host.Outcome State Fault Refusal :=
  s.receivedPlain .ctrl 0

/-- GoodCRC, CTRL 1 (R176): h_good_crc, no responder. -/
def execRxGoodCrc (_f : RxFields) (s : State) : Host.Outcome State Fault Refusal :=
  s.received (s.receiving .ctrl 1).goodCrc

/-- GotoMin, CTRL 2 (R411): no handler, responder r_not_supported. -/
def execRxGotoMin (_f : RxFields) (s : State) : Host.Outcome State Fault Refusal :=
  s.receivedPlain .ctrl 2

/-- Accept, CTRL 3 (R177): h_accept, no responder. -/
def execRxAccept (_f : RxFields) (s : State) : Host.Outcome State Fault Refusal :=
  s.received (s.receiving .ctrl 3).accepted

/-- Reject, CTRL 4 (R178): h_reject, no responder. -/
def execRxReject (_f : RxFields) (s : State) : Host.Outcome State Fault Refusal :=
  s.received ((s.receiving .ctrl 4).rejectedBy s.params.rejectPolicy)

/-- Ping, CTRL 5 (R412): no handler, responder r_not_supported. -/
def execRxPing (_f : RxFields) (s : State) : Host.Outcome State Fault Refusal :=
  s.receivedPlain .ctrl 5

/-- PS_RDY, CTRL 6 (R179): h_ps_rdy, no responder. -/
def execRxPsRdy (_f : RxFields) (s : State) : Host.Outcome State Fault Refusal :=
  s.received (s.receiving .ctrl 6).psReady

/-- Get_Source_Cap, CTRL 7 (R413): no handler, responder r_not_supported. -/
def execRxGetSourceCap (_f : RxFields) (s : State) : Host.Outcome State Fault Refusal :=
  s.receivedPlain .ctrl 7

/-- Get_Sink_Cap, CTRL 8 (R180): no handler, responder r_sink_cap. -/
def execRxGetSinkCap (_f : RxFields) (s : State) : Host.Outcome State Fault Refusal :=
  s.receivedPlain .ctrl 8

/-- DR_Swap, CTRL 9 (R181): no handler, responder r_reject. -/
def execRxDrSwap (_f : RxFields) (s : State) : Host.Outcome State Fault Refusal :=
  s.receivedPlain .ctrl 9

/-- PR_Swap, CTRL 10 (R182): no handler, responder r_reject. -/
def execRxPrSwap (_f : RxFields) (s : State) : Host.Outcome State Fault Refusal :=
  s.receivedPlain .ctrl 10

/-- VCONN_Swap, CTRL 11 (R183): no handler, responder r_reject. -/
def execRxVconnSwap (_f : RxFields) (s : State) : Host.Outcome State Fault Refusal :=
  s.receivedPlain .ctrl 11

/-- Wait, CTRL 12 (R414): no handler, responder r_not_supported. -/
def execRxWait (_f : RxFields) (s : State) : Host.Outcome State Fault Refusal :=
  s.receivedPlain .ctrl 12

/-- Soft_Reset, CTRL 13 (R184): no handler, responder r_accept. -/
def execRxSoftReset (_f : RxFields) (s : State) : Host.Outcome State Fault Refusal :=
  s.receivedPlain .ctrl 13

/-- Data_Reset, CTRL 14 (R415): no handler, responder r_not_supported. -/
def execRxDataReset (_f : RxFields) (s : State) : Host.Outcome State Fault Refusal :=
  s.receivedPlain .ctrl 14

/-- Data_Reset_Complete, CTRL 15 (R416): no handler, responder r_not_supported. -/
def execRxDataResetComplete (_f : RxFields) (s : State) : Host.Outcome State Fault Refusal :=
  s.receivedPlain .ctrl 15

/-- Not_Supported, CTRL 16 (R417): no handler, responder r_not_supported. -/
def execRxNotSupported (_f : RxFields) (s : State) : Host.Outcome State Fault Refusal :=
  s.receivedPlain .ctrl 16

/-- Get_Source_Cap_Extended, CTRL 17 (R418): no handler, responder r_not_supported. -/
def execRxGetSourceCapExtended (_f : RxFields) (s : State) : Host.Outcome State Fault Refusal :=
  s.receivedPlain .ctrl 17

/-- Get_Status, CTRL 18 (R419): no handler, responder r_not_supported. -/
def execRxGetStatus (_f : RxFields) (s : State) : Host.Outcome State Fault Refusal :=
  s.receivedPlain .ctrl 18

/-- FR_Swap, CTRL 19 (R420): no handler, responder r_not_supported. -/
def execRxFrSwap (_f : RxFields) (s : State) : Host.Outcome State Fault Refusal :=
  s.receivedPlain .ctrl 19

/-- Get_PPS_Status, CTRL 20 (R421): no handler, responder r_not_supported. -/
def execRxGetPpsStatus (_f : RxFields) (s : State) : Host.Outcome State Fault Refusal :=
  s.receivedPlain .ctrl 20

/-- Get_Country_Codes, CTRL 21 (R422): no handler, responder r_not_supported. -/
def execRxGetCountryCodes (_f : RxFields) (s : State) : Host.Outcome State Fault Refusal :=
  s.receivedPlain .ctrl 21

/-- Get_Sink_Cap_Extended, CTRL 22 (R185): no handler, responder r_sink_cap_ext. -/
def execRxGetSinkCapExtended (_f : RxFields) (s : State) : Host.Outcome State Fault Refusal :=
  s.receivedPlain .ctrl 22

/-- C_Other, CTRL 23 (R189): no handler, responder r_not_supported. -/
def execRxCOther (_typ : BitVec 5) (_f : RxFields) (s : State) : Host.Outcome State Fault Refusal :=
  s.receivedPlain .ctrl 23

/-- D_Reserved0, DATA 0 (R423): no handler, responder r_not_supported. -/
def execRxDReserved0 (_f : RxFields) (_objs : List Obj) (s : State) : Host.Outcome State Fault Refusal :=
  s.receivedPlain .data 0

/-- Source_Capabilities, DATA 1 (R186): h_source_cap, responder r_request. -/
def execRxSourceCapabilities (_f : RxFields) (objs : List Obj) (s : State) : Host.Outcome State Fault Refusal :=
  s.received ((s.receiving .data 1).sourceCap s.params objs)

/-- Request, DATA 2 (R424): no handler, responder r_not_supported. -/
def execRxRequest (_f : RxFields) (_objs : List Obj) (s : State) : Host.Outcome State Fault Refusal :=
  s.receivedPlain .data 2

/-- BIST, DATA 3 (R187): h_nop, no responder. -/
def execRxBist (_f : RxFields) (_objs : List Obj) (s : State) : Host.Outcome State Fault Refusal :=
  s.receivedPlain .data 3

/-- Sink_Capabilities, DATA 4 (R425): no handler, responder r_not_supported. -/
def execRxSinkCapabilities (_f : RxFields) (_objs : List Obj) (s : State) : Host.Outcome State Fault Refusal :=
  s.receivedPlain .data 4

/-- Battery_Status, DATA 5 (R426): no handler, responder r_not_supported. -/
def execRxBatteryStatus (_f : RxFields) (_objs : List Obj) (s : State) : Host.Outcome State Fault Refusal :=
  s.receivedPlain .data 5

/-- Alert, DATA 6 (R427): no handler, responder r_not_supported. -/
def execRxAlert (_f : RxFields) (_objs : List Obj) (s : State) : Host.Outcome State Fault Refusal :=
  s.receivedPlain .data 6

/-- Get_Country_Info, DATA 7 (R428): no handler, responder r_not_supported. -/
def execRxGetCountryInfo (_f : RxFields) (_objs : List Obj) (s : State) : Host.Outcome State Fault Refusal :=
  s.receivedPlain .data 7

/-- Enter_USB, DATA 8 (R429): no handler, responder r_not_supported. -/
def execRxEnterUsb (_f : RxFields) (_objs : List Obj) (s : State) : Host.Outcome State Fault Refusal :=
  s.receivedPlain .data 8

/-- D_Reserved9, DATA 9 (R430): no handler, responder r_not_supported. -/
def execRxDReserved9 (_f : RxFields) (_objs : List Obj) (s : State) : Host.Outcome State Fault Refusal :=
  s.receivedPlain .data 9

/-- D_Reserved10, DATA 10 (R431): no handler, responder r_not_supported. -/
def execRxDReserved10 (_f : RxFields) (_objs : List Obj) (s : State) : Host.Outcome State Fault Refusal :=
  s.receivedPlain .data 10

/-- D_Reserved11, DATA 11 (R432): no handler, responder r_not_supported. -/
def execRxDReserved11 (_f : RxFields) (_objs : List Obj) (s : State) : Host.Outcome State Fault Refusal :=
  s.receivedPlain .data 11

/-- D_Reserved12, DATA 12 (R433): no handler, responder r_not_supported. -/
def execRxDReserved12 (_f : RxFields) (_objs : List Obj) (s : State) : Host.Outcome State Fault Refusal :=
  s.receivedPlain .data 12

/-- D_Reserved13, DATA 13 (R434): no handler, responder r_not_supported. -/
def execRxDReserved13 (_f : RxFields) (_objs : List Obj) (s : State) : Host.Outcome State Fault Refusal :=
  s.receivedPlain .data 13

/-- D_Reserved14, DATA 14 (R435): no handler, responder r_not_supported. -/
def execRxDReserved14 (_f : RxFields) (_objs : List Obj) (s : State) : Host.Outcome State Fault Refusal :=
  s.receivedPlain .data 14

/-- Vendor_Defined, DATA 15 (R188): h_nop, responder r_not_supported. -/
def execRxVendorDefined (_f : RxFields) (_objs : List Obj) (s : State) : Host.Outcome State Fault Refusal :=
  s.receivedPlain .data 15

/-- D_Other, DATA 16 (R190): no handler, responder r_not_supported. -/
def execRxDOther (_typ : BitVec 5) (_f : RxFields) (_objs : List Obj) (s : State) : Host.Outcome State Fault Refusal :=
  s.receivedPlain .data 16

/-- E_Reserved0, EXT 0 (R436): no handler, responder r_not_supported. -/
def execRxEReserved0 (_f : RxFields) (_objs : List Obj) (s : State) : Host.Outcome State Fault Refusal :=
  s.receivedPlain .ext 0

/-- Source_Capabilities_Extended, EXT 1 (R437): no handler, responder r_not_supported. -/
def execRxSourceCapabilitiesExtended (_f : RxFields) (_objs : List Obj) (s : State) : Host.Outcome State Fault Refusal :=
  s.receivedPlain .ext 1

/-- Status, EXT 2 (R438): no handler, responder r_not_supported. -/
def execRxStatus (_f : RxFields) (_objs : List Obj) (s : State) : Host.Outcome State Fault Refusal :=
  s.receivedPlain .ext 2

/-- Get_Battery_Cap, EXT 3 (R439): no handler, responder r_not_supported. -/
def execRxGetBatteryCap (_f : RxFields) (_objs : List Obj) (s : State) : Host.Outcome State Fault Refusal :=
  s.receivedPlain .ext 3

/-- Get_Battery_Status, EXT 4 (R440): no handler, responder r_not_supported. -/
def execRxGetBatteryStatus (_f : RxFields) (_objs : List Obj) (s : State) : Host.Outcome State Fault Refusal :=
  s.receivedPlain .ext 4

/-- Battery_Capabilities, EXT 5 (R441): no handler, responder r_not_supported. -/
def execRxBatteryCapabilities (_f : RxFields) (_objs : List Obj) (s : State) : Host.Outcome State Fault Refusal :=
  s.receivedPlain .ext 5

/-- Get_Manufacturer_Info, EXT 6 (R442): no handler, responder r_not_supported. -/
def execRxGetManufacturerInfo (_f : RxFields) (_objs : List Obj) (s : State) : Host.Outcome State Fault Refusal :=
  s.receivedPlain .ext 6

/-- Manufacturer_Info, EXT 7 (R443): no handler, responder r_not_supported. -/
def execRxManufacturerInfo (_f : RxFields) (_objs : List Obj) (s : State) : Host.Outcome State Fault Refusal :=
  s.receivedPlain .ext 7

/-- Security_Request, EXT 8 (R444): no handler, responder r_not_supported. -/
def execRxSecurityRequest (_f : RxFields) (_objs : List Obj) (s : State) : Host.Outcome State Fault Refusal :=
  s.receivedPlain .ext 8

/-- Security_Response, EXT 9 (R445): no handler, responder r_not_supported. -/
def execRxSecurityResponse (_f : RxFields) (_objs : List Obj) (s : State) : Host.Outcome State Fault Refusal :=
  s.receivedPlain .ext 9

/-- Firmware_Update_Request, EXT 10 (R446): no handler, responder r_not_supported. -/
def execRxFirmwareUpdateRequest (_f : RxFields) (_objs : List Obj) (s : State) : Host.Outcome State Fault Refusal :=
  s.receivedPlain .ext 10

/-- Firmware_Update_Response, EXT 11 (R447): no handler, responder r_not_supported. -/
def execRxFirmwareUpdateResponse (_f : RxFields) (_objs : List Obj) (s : State) : Host.Outcome State Fault Refusal :=
  s.receivedPlain .ext 11

/-- PPS_Status, EXT 12 (R191): h_pps_status, no responder. -/
def execRxPpsStatus (_f : RxFields) (objs : List Obj) (s : State) : Host.Outcome State Fault Refusal :=
  s.received ((s.receiving .ext 12).ppsStatus objs)

/-- Country_Info, EXT 13 (R448): no handler, responder r_not_supported. -/
def execRxCountryInfo (_f : RxFields) (_objs : List Obj) (s : State) : Host.Outcome State Fault Refusal :=
  s.receivedPlain .ext 13

/-- Country_Codes, EXT 14 (R449): no handler, responder r_not_supported. -/
def execRxCountryCodes (_f : RxFields) (_objs : List Obj) (s : State) : Host.Outcome State Fault Refusal :=
  s.receivedPlain .ext 14

/-- Sink_Capabilities_Extended, EXT 15 (R450): no handler, responder r_not_supported. -/
def execRxSinkCapabilitiesExtended (_f : RxFields) (_objs : List Obj) (s : State) : Host.Outcome State Fault Refusal :=
  s.receivedPlain .ext 15

/-- E_Other, EXT 16 (R192): no handler, responder r_not_supported. -/
def execRxEOther (_typ : BitVec 5) (_f : RxFields) (_objs : List Obj) (s : State) : Host.Outcome State Fault Refusal :=
  s.receivedPlain .ext 16

end Sys2Proof.Machine
end

