-- ==== Sys2Proof/Machine/Framer.lean ====
section
/-! DEFINITION. FR, the framer (spec/40_framer.md): its operations, as PL and the host call them, and the meanings of
the nine FR commands. -/

namespace Sys2Proof.Machine

open Sys2Proof.Config

/-! ## FR_INIT (R131) -/

/-- The seven interrupt sources `X.configure()` enables (20_memory.md R62). -/
def enabledInterrupts : List IntSource :=
  [.vbusOk, .activity, .crcCheck, .collision, .hardReset, .retryFail, .goodCrcSent]

/-- What a successful FR_INIT leaves in FR, beside the identification byte (R131). -/
def Fr.initialised (f : Fr) : Fr :=
  { f with
    attach := .unattached
    cc1 := .opn
    cc2 := .opn
    ccSel := .none
    vbusSenseEn := true
    vbusLast := false
    ready := true }

/-- A failed step of an operation that returns a status only. -/
def failSt (st : Status) (s : State) : Status × State := (st, s)

/-- The steps of FR_INIT after the identification (R131). -/
def State.frConfigure (s : State) : Status × State :=
  s.attempt (.configure nAutoRetry enabledInterrupts) failSt fun _ s =>
  s.attempt (.power .oscillator) failSt fun _ s =>
  s.attempt (.setVbusMask true) failSt fun _ s =>
  (.ok, { s with fr := s.fr.initialised })

/-- FR_INIT (R131). -/
def State.frInit (s : State) : Status × State :=
  State.attempt { s with fr := { s.fr with ready := false } } .swReset failSt fun _ s =>
  s.attempt .readId failSt fun a s =>
  if idRecognised s.params a.byte then
    State.frConfigure { s with fr := { s.fr with devId := a.byte } }
  else (.deviceNotFound, { s with fr := { s.fr with devId := a.byte } })

/-! ## FR_POLL (R132 to R140) -/

/-- What a poll returns: a status, an event set and the state. -/
structure Polled where
  status : Status
  events : FrEvents
  state  : State
  deriving DecidableEq, Repr

/-- A poll that stops: "The event set is empty whenever the status is not OK" (R132). -/
def failPoll (st : Status) (s : State) : Polled := ⟨st, FrEvents.empty, s⟩

/-- The outcome of sampling one pin: the status, the level if it is OK, and the state. -/
structure Sampled where
  status : Status
  level  : LineLevel
  state  : State
  deriving DecidableEq, Repr

/-- The resamples of STABLE_SAMPLE (R135): n more, each after a delay, each equal to the first. -/
def resample (pin : Pin) (first : LineLevel) : Nat → State → Sampled
  | 0, s => ⟨.ok, first, s⟩
  | n + 1, s =>
    (s.delay s.params.tCcSampleMs).attempt (.sampleCc pin) (fun st s => ⟨st, first, s⟩) fun a s =>
      if a.level = first then resample pin first n s else ⟨.busy, first, s⟩

/-- STABLE_SAMPLE(pin) (R135). -/
def State.stableSample (s : State) (pin : Pin) : Sampled :=
  s.attempt (.sampleCc pin) (fun st s => ⟨st, .opn, s⟩) fun a s => resample pin a.level nCcResample s

/-- The pin the automatic CRC is tied to (R134): the one that is not open, when exactly one is. -/
def selectPin (l1 l2 : LineLevel) : CcSel :=
  if l1 ≠ .opn ∧ l2 = .opn then .cc1
  else if l2 ≠ .opn ∧ l1 = .opn then .cc2
  else .none

/-- The second half of the Unattached arm (R134): both pins stable at l1 and l2. -/
def State.pollAttach (s : State) (l1 l2 : LineLevel) : Polled :=
  s.attempt .clearInterrupts failPoll fun _ s =>
  s.attempt (.setCc (selectPin l1 l2)) failPoll fun _ s =>
  ⟨.ok, { FrEvents.empty with attached := true },
    { s with fr := { s.fr with cc1 := l1, cc2 := l2, ccSel := selectPin l1 l2, attach := .attached } }⟩

/-- Both pins sampled, the first one first (R133). -/
def State.pollSample (s : State) : Polled :=
  let r1 := s.stableSample .cc1
  if r1.status ≠ .ok then failPoll r1.status r1.state
  else
    let r2 := r1.state.stableSample .cc2
    if r2.status ≠ .ok then failPoll r2.status r2.state
    else r2.state.pollAttach r1.level r2.level

/-- POLL_UNATTACHED (R133). -/
def State.pollUnattached (s : State) : Polled :=
  s.attempt .readStatus failPoll fun a s =>
  if a.status.vbusOk then
    State.attempt { s with fr := { s.fr with vbusLast := true } } (.power .measure) failPoll fun _ s => s.pollSample
  else ⟨.ok, FrEvents.empty, { s with fr := { s.fr with vbusLast := false } }⟩

/-- The detach (R136): the drive configuration torn down, the measurement block powered down. -/
def State.pollDetach (s : State) : Polled :=
  s.attempt .teardown failPoll fun _ s =>
  s.attempt (.power .oscillator) failPoll fun _ s =>
  ⟨.ok, { FrEvents.empty with detached := true },
    { s with fr := { s.fr with cc1 := .opn, cc2 := .opn, ccSel := .none, attach := .unattached } }⟩

/-- RX_FAIL (R139): the receive FIFO flushed, whether or not the flush succeeds, and ReadError with no event. -/
def State.rxFail (s : State) : Polled := failPoll .readError (s.issue .rxFlush).2

/-- The frame registers written together (R138): the preamble's three bytes and the payload. -/
def Fr.received (f : Fr) (b p : List Byte) : Fr :=
  let h := ofLe16 (b.getD 1 0) (b.getD 2 0)
  let count := objectCount h
  { f with
    rxToken := b.getD 0 0
    rxHdr := h
    rxObj := ⟨rxObjAt p count 0, rxObjAt p count 1, rxObjAt p count 2, rxObjAt p count 3,
              rxObjAt p count 4, rxObjAt p count 5, rxObjAt p count 6⟩ }

/-- The third part of the Attached arm (R138): one frame, if the receive FIFO is not empty. -/
def State.pollReceive (s : State) (rxEmpty : Bool) (ev : FrEvents) : Polled :=
  if rxEmpty then ⟨.ok, ev, s⟩
  else
    s.attempt (.rxRead 3) (fun _ s => s.rxFail) fun b s =>
    s.attempt (.rxRead (4 * objectCount (ofLe16 (b.bytes.getD 1 0) (b.bytes.getD 2 0)) + s.params.nCrcBytes))
      (fun _ s => s.rxFail) fun p s =>
    ⟨.ok, { ev with rxFrame := true }, { s with fr := s.fr.received b.bytes p.bytes }⟩

/-- The second part of the Attached arm (R137): the latched hard reset, then the latched good-CRC-sent. -/
def State.pollLatched (s : State) (x : XStatus) : Polled :=
  if x.iHardReset then s.attempt .pdReset failPoll fun _ s => ⟨.ok, FrEvents.empty, s⟩
  else if x.iGcrcSent then
    s.attempt .clearGcrcSent failPoll fun _ s => s.pollReceive x.rxEmpty { FrEvents.empty with goodCrcSent := true }
  else s.pollReceive x.rxEmpty FrEvents.empty

/-- POLL_ATTACHED (R136): the status read, the detach, then R137 and R138. -/
def State.pollAttached (s : State) : Polled :=
  s.attempt .readStatus failPoll fun a s =>
  let s := { s with fr := { s.fr with vbusLast := a.status.vbusOk } }
  if s.fr.vbusSenseEn = true ∧ a.status.vbusOk = false then s.pollDetach
  else s.pollLatched a.status

/-- FR_POLL (R132), behind the gate of R130. -/
def State.frPoll (s : State) : Polled :=
  if s.fr.ready then
    match s.fr.attach with
    | .unattached => s.pollUnattached
    | .attached => s.pollAttached
  else failPoll .notInitialised s

/-! ## The small operations -/

/-- FR_SET_VBUS_SENSE (R141), behind the gate of R130. -/
def State.frSetVbusSense (s : State) (en : Bool) : Status × State :=
  if s.fr.ready then (.ok, { s with fr := { s.fr with vbusSenseEn := en } })
  else (.notInitialised, s)

/-- The transmit FIFO layout of one frame (30_encoding.md R89): the objects beyond the header's count are not sent. -/
def txBytes (p : Params) (h : Half) (objs : List Obj) : List Byte :=
  [p.tokSop1, p.tokSop1, p.tokSop1, p.tokSop2, p.tokPackSym + BitVec.ofNat 8 (2 + 4 * objectCount h)]
    ++ le16 h ++ objsBytes (present (objectCount h) objs)
    ++ [p.tokJamCrc, p.tokEop, p.tokTxOff, p.tokTxOn]

/-- FR_TX_FRAME (R145), behind the gate of R130: the whole frame in one write. -/
def State.frTxFrame (s : State) (h : Half) (objs : List Obj) : Status × State :=
  if s.fr.ready then s.attempt (.txWrite (txBytes s.params h objs)) failSt fun _ s => (.ok, s)
  else (.notInitialised, s)

/-- FR_TX_HARD_RESET (R146), behind the gate of R130. -/
def State.frTxHardReset (s : State) : Status × State :=
  if s.fr.ready then
    s.attempt .sendHardReset failSt fun _ s =>
    (s.delay s.params.tHardResetSettleMs).attempt .pdReset failSt fun _ s => (.ok, s)
  else (.notInitialised, s)

/-! ## The commands -/

/-- FR_INIT, op 0x10 (R131). -/
def execFrInit (s : State) : Host.Outcome State Fault Refusal :=
  .next (s.frInit.2.replySt s.frInit.1)

/-- FR_POLL, op 0x11 (R132): the status and the event byte. -/
def execFrPoll (s : State) : Host.Outcome State Fault Refusal :=
  .next (s.frPoll.state.reply [s.frPoll.status.code, s.frPoll.events.byte])

/-- FR_SET_VBUS_SENSE, op 0x12 (R141): "any non-zero value counts as 1". -/
def execFrSetVbusSense (en : Byte) (s : State) : Host.Outcome State Fault Refusal :=
  .next ((s.frSetVbusSense (en != 0)).2.replySt (s.frSetVbusSense (en != 0)).1)

/-- FR_READ_CC, op 0x13 (R142). -/
def execFrReadCc (s : State) : Host.Outcome State Fault Refusal :=
  .next (s.reply [levelCode s.fr.cc1, levelCode s.fr.cc2])

/-- FR_READ_VBUS, op 0x14 (R143). -/
def execFrReadVbus (s : State) : Host.Outcome State Fault Refusal :=
  .next (s.reply [boolByte s.fr.vbusLast])

/-- FR_READ_ID, op 0x15 (R144). -/
def execFrReadId (s : State) : Host.Outcome State Fault Refusal :=
  .next (s.reply [s.fr.devId])

/-- FR_TX_FRAME, op 0x16 (R145). -/
def execFrTxFrame (header : Half) (objs : List Obj) (s : State) : Host.Outcome State Fault Refusal :=
  .next ((s.frTxFrame header objs).2.replySt (s.frTxFrame header objs).1)

/-- FR_TX_HARD_RESET, op 0x17 (R146). -/
def execFrTxHardReset (s : State) : Host.Outcome State Fault Refusal :=
  .next (s.frTxHardReset.2.replySt s.frTxHardReset.1)

/-- FR_GET_RX, op 0x18 (R147): the header and the seven objects. -/
def execFrGetRx (s : State) : Host.Outcome State Fault Refusal :=
  .next (s.reply (le16 s.fr.rxHdr ++ objsBytes s.fr.rxObj.toList))

end Sys2Proof.Machine
end

