-- ==== Sys2Proof/Machine/Policy.lean ====
section
/-! DEFINITION. PL, the sequencer (spec/44_policy.md): INIT, TICK with its two phases, the two reconfiguration commands
and the getters. PL reads FR and PE only through their operations (spec/10_state.md R21). -/

namespace Sys2Proof.Machine

open Sys2Proof.Config

/-! ## Small steps -/

/-- READY_STATUS, READY_MV and READY_MA written together. -/
def Pl.withReady (p : Pl) (st : ReadyStatus) (mv ma : BitVec 32) : Pl :=
  { p with readyStatus := st, readyMv := mv, readyMa := ma }

/-- Back to NotAvailable, 0, 0 (R277, R279, R281). -/
def Pl.notReady (p : Pl) : Pl := p.withReady .notAvailable 0 0

/-- The three flags and the retry counter cleared (R277, R279). -/
def Pl.clearWaits (p : Pl) : Pl :=
  { p with waitSrcCap := false, waitPsRdy := false, reqPending := false, srcCapRetry := 0 }

/-- DEFAULT_POWER (R284): VBUS sensing on, Typical at 5000 mV and 1000 mA, logged. -/
def State.defaultPower (s : State) : State :=
  let s := (s.frSetVbusSense true).2
  State.log { s with pl := s.pl.withReady .typical defaultMv defaultMa } .powerReady none []

/-- RESTAGE (R302): a PPS target under 5 V is put aside and 5 V at the same current asked for first. -/
def State.restage (s : State) : State :=
  if s.pl.ppsVNext = 0 ∧ s.pe.ppsV ≠ 0 ∧ s.pe.ppsV.toNat < ppsTwoStage.toNat then
    { s with
      pl := { s.pl with ppsVNext := s.pe.ppsV, ppsINext := s.pe.ppsI }
      pe := (s.pe.setPps s.params ppsTwoStage s.pe.ppsI false).2 }
  else s

/-! ## INIT (R271) -/

/-- What INIT clears in PL before it touches the transceiver (R271); T_POLL is written later. -/
def Pl.cleared (p : Pl) : Pl :=
  { (p.notReady.clearWaits) with
    ready := false
    tSrcCap := 0
    tPsRdy := 0
    tPpsReq := 0
    ppsVNext := 0
    ppsINext := 0 }

/-- The target INIT stores: the option, then the PPS pair if one is given (R271). -/
def Pe.initTarget (pe : Pe) (p : Params) (option : Byte) (mv ma : Half) : Pe :=
  let pe := (pe.setPowerOption p option).2
  if mv = 0 then pe
  else (pe.setPps p (BitVec.ofNat 16 (toPps mv ma).1) (BitVec.ofNat 8 (toPps mv ma).2) false).2

/-- INIT (R271). -/
def State.plInit (s : State) (option : Byte) (mv ma : Half) : Status × State :=
  let r := State.frInit { s with pe := Pe.reset, pl := s.pl.cleared }
  if r.1 = .ok then
    let s := State.restage { r.2 with pe := r.2.pe.initTarget r.2.params option mv ma }
    (.ok, { s with pl := { s.pl with tPoll := s.env.now, ready := true } })
  else r

/-! ## Attach and detach (R277 to R279) -/

/-- The qualifying pin (R277): exactly one pin not Open, and that one above the USB default tier. -/
def qualifies (l1 l2 : LineLevel) : Bool :=
  (1 < (levelCode l1).toNat && l2 == .opn) || (1 < (levelCode l2).toNat && l1 == .opn)

/-- ON_ATTACHED (R277, R278). -/
def State.onAttached (s : State) : State :=
  let s1 := State.log { s with pe := s.pe.clear, pl := s.pl.clearWaits } .attach none []
  if qualifies s.fr.cc1 s.fr.cc2 then
    let s2 := State.restage { s1 with pl := s1.pl.notReady }
    { s2 with pl := { s2.pl with waitSrcCap := true, tSrcCap := s2.env.now } }
  else s1.defaultPower

/-- ON_DETACHED (R279). -/
def State.onDetached (s : State) : State :=
  State.log { s with pe := s.pe.clear, pl := s.pl.clearWaits.notReady } .detach none []

/-! ## Waiting for source capabilities (R280, R281) -/

/-- SRC_CAP_TIMEOUT (R280, R281): three times Get_Source_Cap, the fourth time a hard reset. -/
def State.srcCapTimeout (s : State) : Status × State :=
  let s := { s with pl := { s.pl with tSrcCap := s.env.now } }
  if s.pl.srcCapRetry.toNat < nSrcCapRetry then
    let s := { s with pl := { s.pl with srcCapRetry := s.pl.srcCapRetry + 1 } }
    let f := s.pe.buildGetSourceCap s.params
    let r := s.frTxFrame f.header f.objs
    (r.1, r.2.log .transmit (some f.header) [])
  else
    let s := { s with pl := { s.pl with srcCapRetry := 0 } }
    let r := s.frTxHardReset
    let s := r.2.log .transmit none []
    (r.1, { s with pe := s.pe.clear, pl := s.pl.notReady })

/-! ## Requests (R283, R286) -/

/-- SEND_REQUEST (R286): the flags change only if the transmission succeeded. -/
def State.sendRequest (s : State) : Status × State :=
  let f := s.pe.buildRequest s.params
  let r := s.frTxFrame f.header f.objs
  let s := r.2.log .transmit (some f.header) f.objs
  if r.1 = .ok then
    (.ok, { s with pl := { s.pl with
      reqPending := false
      waitPsRdy := true
      tPsRdy := s.env.now
      tPpsReq := s.env.now } })
  else (r.1, s)

/-- The header of a Request, whatever its id (R283: "it was the Request", whose type code is a parameter). -/
def isRequestHeader (p : Params) (h : Half) : Bool :=
  h.extractLsb' 15 1 == 0 && h.extractLsb' 12 3 == 1 && h.extractLsb' 0 5 == typeCode p .data 2

/-- ON_GOOD_CRC_SENT (R283): after the guard delay, the reply of the current message, if it has one. -/
def State.onGoodCrcSent (s : State) : Status × State :=
  let s := s.delay s.params.tGuardMs
  match s.pe.respond s.params with
  | none => (.ok, s)
  | some f =>
    let r := s.frTxFrame f.header f.objs
    let s := r.2.log .transmit (some f.header) f.objs
    if r.1 = .ok ∧ isRequestHeader s.params f.header = true then
      (.ok, { s with pl := { s.pl with reqPending := false, tPpsReq := s.env.now } })
    else (r.1, s)

/-! ## PE events (R285 to R291) -/

/-- ON_SOURCE_CAP (R285). -/
def State.onSourceCap (s : State) : State :=
  State.log { s with pl := { s.pl with
    waitSrcCap := false
    srcCapRetry := 0
    waitPsRdy := true
    tPsRdy := s.env.now
    reqPending := true } } .capReceived none []

/-- The second stage of a PPS start-up (R288, R302): the true target, and a Request for it. -/
def State.secondStage (s : State) : State :=
  if s.pl.ppsVNext = 0 then s
  else
    { s with
      pe := (s.pe.setPps s.params s.pl.ppsVNext s.pl.ppsINext false).2
      pl := { s.pl with ppsVNext := 0, ppsINext := 0, reqPending := true } }

/-- ON_PS_RDY (R288): the contract confirmed, if one was awaited. -/
def State.onPsRdy (s : State) : State :=
  if s.pl.waitPsRdy then
    let s := { s with pl := { s.pl with waitPsRdy := false } }
    match s.pe.powerInfo s.pe.selected.toNat with
    | none => s.defaultPower
    | some i =>
      if i.typ = .augmented then
        let v := fromPps s.pe.ppsV s.pe.ppsI
        let s := (s.frSetVbusSense false).2
        State.secondStage (State.log { s with pl := s.pl.withReady .pps v.1 v.2 } .powerReady none [])
      else
        let v := fromPdo i.maxV i.maxI
        let s := (s.frSetVbusSense true).2
        State.log { s with pl := s.pl.withReady .typical v.1 v.2 } .powerReady none []
  else s

/-- PS_RDY_TIMEOUT (R289). -/
def State.psRdyTimeout (s : State) : State :=
  State.defaultPower { s with pl := { s.pl with waitPsRdy := false } }

/-- ON_REJECTED (R290), under REJECT_POLICY = Distinct. -/
def State.onRejected (s : State) : State :=
  if s.pl.waitPsRdy then
    let s := State.defaultPower { s with pl := { s.pl with waitPsRdy := false } }
    { s with pl := { s.pl with ppsVNext := 0, ppsINext := 0 } }
  else s

/-- What PL does with the PE events of a handled frame (R282); Accept and PpsStatusReceived do nothing (R287,
R291). -/
def State.onPeEvents (s : State) (ev : PeEvents) : State :=
  let s := if ev.sourceCapReceived then s.onSourceCap else s
  let s := if ev.psRdy then s.onPsRdy else s
  if ev.rejected then s.onRejected else s

/-- A received header that is a control message of type 4, the type code of Reject (R282, R304; the code is a
parameter). -/
def isRejectHeader (p : Params) (h : Half) : Bool :=
  h.extractLsb' 15 1 == 0 && h.extractLsb' 12 3 == 0 && h.extractLsb' 0 5 == typeCode p .ctrl 4

/-- The log tuples of a received frame (R282, R304). -/
def State.logReceived (s : State) : State :=
  let s := s.log .receive (some s.fr.rxHdr) s.fr.rxObj.toList
  if isRejectHeader s.params s.fr.rxHdr then s.log .reject none [] else s

/-- ON_RX_FRAME (R282): the frame handed to PE, and its events acted on. -/
def State.onRxFrame (s : State) : State :=
  let s := s.logReceived
  let r := s.pe.handleMsg s.params s.fr.rxHdr s.fr.rxObj.toList
  State.onPeEvents { s with pe := r.2 } r.1

/-! ## TICK (R273, R275) -/

/-- FR_POLL until it is not Busy, at most n + 1 times (R275). -/
def pollTries : Nat → State → Polled
  | 0, s => s.frPoll
  | n + 1, s => if s.frPoll.status = .busy then pollTries n s.frPoll.state else s.frPoll

/-- The events of a poll, in the order Detached, Attached, RxFrame, GoodCrcSent (R276). -/
def State.onFrEvents (s : State) (ev : FrEvents) : Status × State :=
  let s := if ev.detached then s.onDetached else s
  let s := if ev.attached then s.onAttached else s
  let s := if ev.rxFrame then s.onRxFrame else s
  if ev.goodCrcSent then s.onGoodCrcSent else (.ok, s)

/-- POLL_AND_DISPATCH (R275): T_POLL written, the poll, its events. -/
def State.pollAndDispatch (s : State) : Status × State :=
  let s := { s with pl := { s.pl with tPoll := s.env.now } }
  let r := pollTries (s.params.nPollTries - 1) s
  if r.status = .ok then r.state.onFrEvents r.events else (r.status, r.state)

/-- Phase A's first half (R273): the source-capability deadline. -/
def State.phaseSrcCap (s : State) : Status × State :=
  if s.pl.waitSrcCap = true ∧ tSinkWaitCap < s.elapsed s.pl.tSrcCap then s.srcCapTimeout else (.ok, s)

/-- A Request is due (R273, R292): one is pending, or PPS must be kept alive. -/
def State.requestDue (s : State) : Bool :=
  s.pl.reqPending || (s.pl.readyStatus == .pps && tPpsRequest < s.elapsed s.pl.tPpsReq)

/-- Phase A's second half (R273): the PS_RDY deadline while waiting for it, else a Request that is due. -/
def State.phaseRequest (s : State) : Status × State :=
  if s.pl.waitPsRdy then
    if tReqToPsRdy < s.elapsed s.pl.tPsRdy then (.ok, s.psRdyTimeout) else (.ok, s)
  else if s.requestDue then s.sendRequest
  else (.ok, s)

/-- Phase B (R273): a poll, when the alert line is set or the last one is long enough ago. -/
def State.phasePoll (s : State) : Status × State :=
  if s.env.alert = true ∨ tPdPolling < s.elapsed s.pl.tPoll then s.pollAndDispatch else (.ok, s)

/-- TICK (R273): "A non-OK sub-step does not stop the TICK; the later sub-steps still run." -/
def State.plTick (s : State) : Status × State :=
  if s.pl.ready then
    let a := s.phaseSrcCap
    let b := a.2.phaseRequest
    let c := b.2.phasePoll
    (worst (worst a.1 b.1) c.1, c.2)
  else (.notInitialised, s)

/-! ## The commands -/

/-- INIT, op 0x01 (R271). -/
def execInit (option : Byte) (ppsMv ppsMa : Half) (s : State) : Host.Outcome State Fault Refusal :=
  .next ((s.plInit option ppsMv ppsMa).2.replySt (s.plInit option ppsMv ppsMa).1)

/-- TICK, op 0x02 (R273). -/
def execTick (s : State) : Host.Outcome State Fault Refusal :=
  .next (s.plTick.2.replySt s.plTick.1)

/-- IS_TRANS, op 0x03 (R296). -/
def execIsTrans (s : State) : Host.Outcome State Fault Refusal :=
  .next (s.reply [boolByte (s.pl.reqPending || s.pl.waitPsRdy)])

/-- GET_MV, op 0x04 (R297). -/
def execGetMv (s : State) : Host.Outcome State Fault Refusal :=
  .next (s.reply (le32 s.pl.readyMv))

/-- GET_MA, op 0x05 (R298). -/
def execGetMa (s : State) : Host.Outcome State Fault Refusal :=
  .next (s.reply (le32 s.pl.readyMa))

/-- `(READY_MV * READY_MA) div 1000` (R299), as a u32. -/
def Pl.milliWatts (p : Pl) : BitVec 32 := BitVec.ofNat 32 (p.readyMv.toNat * p.readyMa.toNat / 1000)

/-- GET_MW, op 0x06 (R299). -/
def execGetMw (s : State) : Host.Outcome State Fault Refusal :=
  .next (s.reply (le32 s.pl.milliWatts))

/-- GET_READY, op 0x07 (R300). -/
def execGetReady (s : State) : Host.Outcome State Fault Refusal :=
  .next (s.reply [s.pl.readyStatus.code])

/-- PL's flags after a reconfiguration (R293 to R295): the second-stage target dropped, and a Request pending if the
selection changed. -/
def Pl.reconfigured (p : Pl) (changed : Bool) : Pl :=
  { p with ppsVNext := 0, ppsINext := 0, reqPending := p.reqPending || changed }

/-- REQ_PPS (R294): the status, and whether the request was accepted. -/
def State.reqPps (s : State) (mv ma : Half) : Status × Bool × State :=
  if s.pl.ready then
    let u := toPps mv ma
    if 255 < u.2 then (.ok, false, s)
    else
      let v : Half := BitVec.ofNat 16 u.1
      let i : Byte := BitVec.ofNat 8 u.2
      if (s.pe.evaluate s.params v i).1 then
        let r := s.pe.setPps s.params v i true
        (.ok, true, { s with pe := r.2, pl := s.pl.reconfigured r.1 })
      else (.ok, false, s)
  else (.notInitialised, false, s)

/-- REQ_PPS, op 0x08 (R294). -/
def execReqPps (mv ma : Half) (s : State) : Host.Outcome State Fault Refusal :=
  let r := s.reqPps mv ma
  .next (r.2.2.reply [r.1.code, boolByte r.2.1])

/-- REQ_OPT (R295). -/
def State.reqOpt (s : State) (option : Byte) : Status × State :=
  if s.pl.ready then
    let r := s.pe.setPowerOption s.params option
    (.ok, { s with pe := r.2, pl := s.pl.reconfigured r.1 })
  else (.notInitialised, s)

/-- REQ_OPT, op 0x09 (R295). -/
def execReqOpt (option : Byte) (s : State) : Host.Outcome State Fault Refusal :=
  .next ((s.reqOpt option).2.replySt (s.reqOpt option).1)

/-- An op code not in the command table (30_encoding.md R98): BadCommand, and nothing changes. -/
def execCmdReserved (_op : Byte) (s : State) : Host.Outcome State Fault Refusal :=
  .next (s.replySt .badCommand)

end Sys2Proof.Machine
end

