-- ==== Sys2Proof/Machine/Dispatch.lean ====
section
/-! DEFINITION. exec: each instruction is its meaning, one direct call an arm. -/

namespace Sys2Proof.Machine

def exec (i : Instr) (s : State) : Host.Outcome State Fault Refusal :=
  match i with
  | .init option ppsMv ppsMa => Sys2Proof.Machine.execInit option ppsMv ppsMa s
  | .tick => Sys2Proof.Machine.execTick s
  | .isTrans => Sys2Proof.Machine.execIsTrans s
  | .getMv => Sys2Proof.Machine.execGetMv s
  | .getMa => Sys2Proof.Machine.execGetMa s
  | .getMw => Sys2Proof.Machine.execGetMw s
  | .getReady => Sys2Proof.Machine.execGetReady s
  | .reqPps mv ma => Sys2Proof.Machine.execReqPps mv ma s
  | .reqOpt option => Sys2Proof.Machine.execReqOpt option s
  | .frInit => Sys2Proof.Machine.execFrInit s
  | .frPoll => Sys2Proof.Machine.execFrPoll s
  | .frSetVbusSense en => Sys2Proof.Machine.execFrSetVbusSense en s
  | .frReadCc => Sys2Proof.Machine.execFrReadCc s
  | .frReadVbus => Sys2Proof.Machine.execFrReadVbus s
  | .frReadId => Sys2Proof.Machine.execFrReadId s
  | .frTxFrame header objs => Sys2Proof.Machine.execFrTxFrame header objs s
  | .frTxHardReset => Sys2Proof.Machine.execFrTxHardReset s
  | .frGetRx => Sys2Proof.Machine.execFrGetRx s
  | .peInit => Sys2Proof.Machine.execPeInit s
  | .peReset => Sys2Proof.Machine.execPeReset s
  | .peHandleMsg header objs => Sys2Proof.Machine.execPeHandleMsg header objs s
  | .peRespond => Sys2Proof.Machine.execPeRespond s
  | .peEvaluate v c => Sys2Proof.Machine.execPeEvaluate v c s
  | .peCreateGetSrcCap => Sys2Proof.Machine.execPeCreateGetSrcCap s
  | .peCreateGetPpsStatus => Sys2Proof.Machine.execPeCreateGetPpsStatus s
  | .peCreateRequest => Sys2Proof.Machine.execPeCreateRequest s
  | .peSetPowerOption option => Sys2Proof.Machine.execPeSetPowerOption option s
  | .peSelectPower index => Sys2Proof.Machine.execPeSelectPower index s
  | .peSetPps v c strict => Sys2Proof.Machine.execPeSetPps v c strict s
  | .peGetPowerInfo index => Sys2Proof.Machine.execPeGetPowerInfo index s
  | .peGetSelected => Sys2Proof.Machine.execPeGetSelected s
  | .peGetPpsStatus => Sys2Proof.Machine.execPeGetPpsStatus s
  | .peGetTarget => Sys2Proof.Machine.execPeGetTarget s
  | .cmdReserved op => Sys2Proof.Machine.execCmdReserved op s
  | .rxCReserved0 f => Sys2Proof.Machine.execRxCReserved0 f s
  | .rxGoodCrc f => Sys2Proof.Machine.execRxGoodCrc f s
  | .rxGotoMin f => Sys2Proof.Machine.execRxGotoMin f s
  | .rxAccept f => Sys2Proof.Machine.execRxAccept f s
  | .rxReject f => Sys2Proof.Machine.execRxReject f s
  | .rxPing f => Sys2Proof.Machine.execRxPing f s
  | .rxPsRdy f => Sys2Proof.Machine.execRxPsRdy f s
  | .rxGetSourceCap f => Sys2Proof.Machine.execRxGetSourceCap f s
  | .rxGetSinkCap f => Sys2Proof.Machine.execRxGetSinkCap f s
  | .rxDrSwap f => Sys2Proof.Machine.execRxDrSwap f s
  | .rxPrSwap f => Sys2Proof.Machine.execRxPrSwap f s
  | .rxVconnSwap f => Sys2Proof.Machine.execRxVconnSwap f s
  | .rxWait f => Sys2Proof.Machine.execRxWait f s
  | .rxSoftReset f => Sys2Proof.Machine.execRxSoftReset f s
  | .rxDataReset f => Sys2Proof.Machine.execRxDataReset f s
  | .rxDataResetComplete f => Sys2Proof.Machine.execRxDataResetComplete f s
  | .rxNotSupported f => Sys2Proof.Machine.execRxNotSupported f s
  | .rxGetSourceCapExtended f => Sys2Proof.Machine.execRxGetSourceCapExtended f s
  | .rxGetStatus f => Sys2Proof.Machine.execRxGetStatus f s
  | .rxFrSwap f => Sys2Proof.Machine.execRxFrSwap f s
  | .rxGetPpsStatus f => Sys2Proof.Machine.execRxGetPpsStatus f s
  | .rxGetCountryCodes f => Sys2Proof.Machine.execRxGetCountryCodes f s
  | .rxGetSinkCapExtended f => Sys2Proof.Machine.execRxGetSinkCapExtended f s
  | .rxCOther typ f => Sys2Proof.Machine.execRxCOther typ f s
  | .rxDReserved0 f objs => Sys2Proof.Machine.execRxDReserved0 f objs s
  | .rxSourceCapabilities f objs => Sys2Proof.Machine.execRxSourceCapabilities f objs s
  | .rxRequest f objs => Sys2Proof.Machine.execRxRequest f objs s
  | .rxBist f objs => Sys2Proof.Machine.execRxBist f objs s
  | .rxSinkCapabilities f objs => Sys2Proof.Machine.execRxSinkCapabilities f objs s
  | .rxBatteryStatus f objs => Sys2Proof.Machine.execRxBatteryStatus f objs s
  | .rxAlert f objs => Sys2Proof.Machine.execRxAlert f objs s
  | .rxGetCountryInfo f objs => Sys2Proof.Machine.execRxGetCountryInfo f objs s
  | .rxEnterUsb f objs => Sys2Proof.Machine.execRxEnterUsb f objs s
  | .rxDReserved9 f objs => Sys2Proof.Machine.execRxDReserved9 f objs s
  | .rxDReserved10 f objs => Sys2Proof.Machine.execRxDReserved10 f objs s
  | .rxDReserved11 f objs => Sys2Proof.Machine.execRxDReserved11 f objs s
  | .rxDReserved12 f objs => Sys2Proof.Machine.execRxDReserved12 f objs s
  | .rxDReserved13 f objs => Sys2Proof.Machine.execRxDReserved13 f objs s
  | .rxDReserved14 f objs => Sys2Proof.Machine.execRxDReserved14 f objs s
  | .rxVendorDefined f objs => Sys2Proof.Machine.execRxVendorDefined f objs s
  | .rxDOther typ f objs => Sys2Proof.Machine.execRxDOther typ f objs s
  | .rxEReserved0 f objs => Sys2Proof.Machine.execRxEReserved0 f objs s
  | .rxSourceCapabilitiesExtended f objs => Sys2Proof.Machine.execRxSourceCapabilitiesExtended f objs s
  | .rxStatus f objs => Sys2Proof.Machine.execRxStatus f objs s
  | .rxGetBatteryCap f objs => Sys2Proof.Machine.execRxGetBatteryCap f objs s
  | .rxGetBatteryStatus f objs => Sys2Proof.Machine.execRxGetBatteryStatus f objs s
  | .rxBatteryCapabilities f objs => Sys2Proof.Machine.execRxBatteryCapabilities f objs s
  | .rxGetManufacturerInfo f objs => Sys2Proof.Machine.execRxGetManufacturerInfo f objs s
  | .rxManufacturerInfo f objs => Sys2Proof.Machine.execRxManufacturerInfo f objs s
  | .rxSecurityRequest f objs => Sys2Proof.Machine.execRxSecurityRequest f objs s
  | .rxSecurityResponse f objs => Sys2Proof.Machine.execRxSecurityResponse f objs s
  | .rxFirmwareUpdateRequest f objs => Sys2Proof.Machine.execRxFirmwareUpdateRequest f objs s
  | .rxFirmwareUpdateResponse f objs => Sys2Proof.Machine.execRxFirmwareUpdateResponse f objs s
  | .rxPpsStatus f objs => Sys2Proof.Machine.execRxPpsStatus f objs s
  | .rxCountryInfo f objs => Sys2Proof.Machine.execRxCountryInfo f objs s
  | .rxCountryCodes f objs => Sys2Proof.Machine.execRxCountryCodes f objs s
  | .rxSinkCapabilitiesExtended f objs => Sys2Proof.Machine.execRxSinkCapabilitiesExtended f objs s
  | .rxEOther typ f objs => Sys2Proof.Machine.execRxEOther typ f objs s
  | .txAccept id => Sys2Proof.Machine.execTxAccept id s
  | .txReject id => Sys2Proof.Machine.execTxReject id s
  | .txGetSourceCap id => Sys2Proof.Machine.execTxGetSourceCap id s
  | .txNotSupported id => Sys2Proof.Machine.execTxNotSupported id s
  | .txGetPpsStatus id => Sys2Proof.Machine.execTxGetPpsStatus id s
  | .txRequest id => Sys2Proof.Machine.execTxRequest id s
  | .txSinkCapabilities id => Sys2Proof.Machine.execTxSinkCapabilities id s
  | .txSinkCapabilitiesExtended id => Sys2Proof.Machine.execTxSinkCapabilitiesExtended id s

end Sys2Proof.Machine
end

