-- ==== Sys2Proof/Machine/Step.lean ====
section
/-! DEFINITION. The step: the next stimulus at the command port is taken, its bytes are decoded under the machine's
MSG_TYPE codes, and the instruction is executed (spec/30_encoding.md R110; spec/00_scope.md R9, R10). -/

namespace Sys2Proof.Machine

/-- One step. With no command waiting the block does nothing (70_reset_and_hazards.md R352: "the block executes
nothing by itself"); a command issued while another runs is refused (R371). -/
def step (s : State) : Host.Outcome State Fault Refusal :=
  match s.port.inbox with
  | [] => .next s
  | x :: rest =>
    if x.overlaps then .refused .reentrantCommand
    else match decodeAt s.params.codes x.fmt x.bytes with
      | .instr i => exec i (s.accept x rest)
      | .rejected e => .refused (refusalOf e)

/-- The state with a word of the opcode table as the next command (log 4, log 7). -/
def State.withFetchWord (s : State) (nbits w : Nat) : State :=
  { s with port := { s.port with inbox := s.tableStimulus nbits w :: s.port.inbox } }

end Sys2Proof.Machine
end

