-- ==== Sys2Proof/Safety.lean ====
section
/-! DEFINITION. The terms claims are made in: what holds of the block's state after every operation (spec/10_state.md R46
and the legal values of its section 2), what the environment will answer, and when a TICK has something to do. -/

namespace Sys2Proof.Machine

open Sys2Proof.Config

/-! ## What holds after every operation -/

/-- SRC_PDO holds 0 at and above PDO_COUNT (10_state.md R33, R46 (b)). -/
def Pe.listTailZero (p : Pe) : Bool :=
  (List.range 7).all fun i => i < p.pdoCount.toNat || p.srcPdo.get i == 0

/-- SELECTED is an index of the live list whenever the list is not empty (10_state.md R35, R46 (b)), and 0 when it is
(43_negotiation.md R254 (a), R252). -/
def Pe.selectedLive (p : Pe) : Bool :=
  if p.pdoCount = 0 then p.selected == 0 else p.selected.toNat < p.pdoCount.toNat

/-- CUR_INDEX is an index of CUR_TABLE: 0 to 23 for CTRL, 0 to 16 for DATA and EXT, 0 for None (10_state.md section 2,
R32). -/
def Pe.currentLegal (p : Pe) : Bool := p.curIndex.toNat ≤ lastIndex p.curTable

/-- What holds of PE state. -/
def Pe.inv (p : Pe) : Bool := p.listTailZero && p.selectedLive && p.currentLegal

/-- While NotAvailable, READY_MV and READY_MA are 0 (10_state.md R38, R46 (c)). -/
def Pl.inv (p : Pl) : Bool := p.readyStatus != .notAvailable || (p.readyMv == 0 && p.readyMa == 0)

/-- While Unattached, no pin is selected and both read Open (10_state.md R46 (d)). -/
def Fr.unattachedOpen (f : Fr) : Bool :=
  f.attach != .unattached || (f.ccSel == .none && f.cc1 == .opn && f.cc2 == .opn)

/-- RX_OBJ[i] is 0 for i at or above the count of RX_HDR (10_state.md R29). -/
def Fr.rxTailZero (f : Fr) : Bool :=
  (List.range 7).all fun i => i < objectCount f.rxHdr || f.rxObj.get i == 0

/-- What holds of FR state. -/
def Fr.inv (f : Fr) : Bool := f.unattachedOpen && f.rxTailZero

/-- The invariants a model may assert (10_state.md R46), with the legal values of the registers whose type allows
more. -/
def State.inv (s : State) : Bool := s.fr.inv && s.pe.inv && s.pl.inv

/-! ## The environment's answers -/

/-- The answer to the k-th transport primitive from here on (00_scope.md R11): the one State lists, else a free one
(log 2). -/
def Env.answerAt (e : Env) (k : Nat) : XAnswer := e.answers.getD k (freeAnswer (e.oracle + k))

/-- Primitive k from here on succeeds (20_memory.md R61). -/
def State.succeeds (s : State) (k : Nat) : Bool := (s.env.answerAt k).fail.isNone

/-- The bytes `X.rx_read(n)` returns as primitive k from here on (20_memory.md R66). -/
def State.bytesAt (s : State) (k n : Nat) : List Byte := fillBytes (s.env.oracle + k) n 0 (s.env.answerAt k).bytes

/-- The state after a sequence of primitives and delays, in order (20_memory.md R71): no block register changes. -/
def State.after (s : State) : List XCall → State
  | [] => s
  | .delayMs n :: cs => (s.delay n).after cs
  | c :: cs => (s.issue c).2.after cs

/-- The status byte of a failed primitive (20_memory.md R61; 60_exceptions.md R320). -/
def errorByte : TransportError → Byte
  | .read => 2
  | .write => 3

/-- The primitives that sample one pin n + 1 times (40_framer.md R135). -/
def sampleCalls (p : Params) (pin : Pin) : Nat → List XCall
  | 0 => [.sampleCc pin]
  | n + 1 => sampleCalls p pin n ++ [.delayMs p.tCcSampleMs, .sampleCc pin]

/-! ## When a TICK has something to do (44_policy.md R273) -/

/-- The source-capability deadline has passed. -/
def State.capDue (s : State) : Bool := s.pl.waitSrcCap && 350 < (s.env.now - s.pl.tSrcCap).toNat

/-- The PS_RDY deadline has passed. -/
def State.psRdyDue (s : State) : Bool := s.pl.waitPsRdy && 580 < (s.env.now - s.pl.tPsRdy).toNat

/-- A Request is to be sent: none is being waited for, and one is pending or PPS is to be kept alive. -/
def State.sendDue (s : State) : Bool :=
  !s.pl.waitPsRdy && (s.pl.reqPending
    || (s.pl.readyStatus == .pps && 5000 < (s.env.now - s.pl.tPpsReq).toNat))

/-- Phase A has nothing to do. -/
def State.quiet (s : State) : Bool := !s.capDue && !s.psRdyDue && !s.sendDue

/-- Phase A transmits (44_policy.md R280, R281, R286, R304): the framer's command c runs as a sub-step; t is what it
leaves, with its log tuple, and st its status. -/
def State.transmits (s : State) (c : Instr) (header : Option Half) (objs : List Obj) (t : State) (st : Byte) : Prop :=
  ∃ u, exec c s = .next u ∧ u.port.reply = [st] ∧ t = { u with
    port := s.port
    env := { u.env with log := s.env.log ++ [⟨u.env.now, .transmit, header, objs⟩] } }

/-- Phase A's first half leaves r with status st: the source-capability deadline (44_policy.md R280, R281). -/
def State.capPart (s r : State) (st : Byte) : Prop :=
  (s.capDue = false ∧ r = s ∧ st = 0) ∨
  (s.capDue = true ∧ s.pl.srcCapRetry.toNat < 3 ∧ ∃ h : Half, exec .peCreateGetSrcCap s = .next (s.reply (le16 h)) ∧
    State.transmits
      { s with pl := { s.pl with
        tSrcCap := s.env.now
        srcCapRetry := BitVec.ofNat 2 (s.pl.srcCapRetry.toNat + 1) } }
      (.frTxFrame h []) (some h) [] r st) ∨
  (s.capDue = true ∧ s.pl.srcCapRetry = 3 ∧ ∃ t, State.transmits
      { s with pl := { s.pl with tSrcCap := s.env.now, srcCapRetry := 0 } } .frTxHardReset none [] t st ∧
    r = { t with
      pe := { t.pe with msgId := 0, curTable := .none, curIndex := 0 }
      pl := { t.pl with readyStatus := .notAvailable, readyMv := 0, readyMa := 0 } })

/-- Phase A's second half leaves r with status st: the PS_RDY deadline, or a Request that is due (44_policy.md R284,
R286, R289, R292). -/
def State.requestPart (s r : State) (st : Byte) : Prop :=
  (s.psRdyDue = false ∧ s.sendDue = false ∧ r = s ∧ st = 0) ∨
  (s.psRdyDue = true ∧ st = 0 ∧ r = { s with
    fr := { s.fr with vbusSenseEn := s.fr.ready || s.fr.vbusSenseEn }
    pl := { s.pl with waitPsRdy := false, readyStatus := .typical, readyMv := 5000, readyMa := 1000 }
    env := { s.env with log := s.env.log ++ [⟨s.env.now, .powerReady, none, []⟩] } }) ∨
  (s.sendDue = true ∧ ∃ (h : Half) (rdo : Obj) (t : State),
    exec .peCreateRequest s = .next (s.reply (le16 h ++ le32 rdo)) ∧
    s.transmits (.frTxFrame h [rdo]) (some h) [rdo] t st ∧
    r = if st = 0 then { t with pl := { t.pl with
      reqPending := false
      waitPsRdy := true
      tPsRdy := t.env.now
      tPpsReq := t.env.now } } else t)

/-- Phase A of a TICK leaves r with status st, that of its first half that is not OK (44_policy.md R273). What the TICK
does next, it does from r. -/
def State.phaseA (s r : State) (st : Byte) : Prop :=
  ∃ (m : State) (a b : Byte), s.capPart m a ∧ m.requestPart r b ∧ st = if a = 0 then b else a

/-- A poll is due. -/
def State.pollDue (s : State) : Bool := s.env.alert || 100 < (s.env.now - s.pl.tPoll).toNat

/-- The poll a TICK settles on: FR_POLL run again as long as it answers Busy, at most n more times (44_policy.md
R275); u is what the last one left. -/
def State.pollsTo : Nat → State → State → Prop
  | 0, s, u => exec .frPoll s = .next u
  | n + 1, s, u => ∃ v, exec .frPoll s = .next v ∧ if v.port.reply = [1, 0] then v.pollsTo n u else u = v

/-- The poll that a TICK acts on, which N_POLL_TRIES bounds. -/
def State.settlesAt (s u : State) : Prop := s.pollsTo (s.params.nPollTries - 1) u

/-! ## Runs and stops -/

/-- Instructions executed one after another, until one stops. -/
def runAll : List Instr → State → Host.Outcome State Fault Refusal
  | [], s => .next s
  | i :: is, s =>
    match exec i s with
    | .next t => runAll is t
    | o => o

/-- A step that stops: the only ones are refusals of input that is outside the port's domain (log 5, log 6, log 9). -/
def stops (s : State) : Bool :=
  match step s with
  | .next _ => false
  | _ => true

end Sys2Proof.Machine
end

