-- ==== Sys2Proof/Certificates/Slice0/Obligations.lean ====
section
/-! DEFINITION. The statements for the provers. They are stated in the terms of Safety.lean: `s.succeeds k` and
`s.env.answerAt k` are what the environment answers to primitive k from here on, `s.after cs` is s after the
primitives cs and nothing else, `s.reply bs` is s with bs as the block's answer. `typeCode s.params t k` is the type
code of row k of a table (30_encoding.md R95 to R97): MSG_TYPE codes are parameters (00_scope.md R9), and the default
codes are the rows themselves. -/

open Sys2Proof Sys2Proof.Config Sys2Proof.Machine

/-! ## Encodings -/

/-- Decoding what a well-formed instruction encodes to gives it back, every operand included (30_encoding.md section 6,
section 4), whatever the MSG_TYPE codes are (00_scope.md R9). -/
def Obligations.DecodeOfEncode : Prop :=
  ∀ (c : TypeCodes) (i : Instr), c.wf = true → i.wf = true → decodeAt c i.format (encodeAt c i) = .instr i

/-- What the decoder reads is well-formed, of the format asked for, and the bytes it was read from begin with its
encoding: no other byte string stands for it, but for what follows its last operand (log 6). This holds whatever the
MSG_TYPE codes are (00_scope.md R9). -/
def Obligations.EncodeOfDecode : Prop :=
  ∀ (c : TypeCodes) (fmt : Format) (bs : List Byte) (i : Instr), c.wf = true → decodeAt c fmt bs = .instr i →
    i.wf = true ∧ i.format = fmt ∧ ∃ rest, bs = encodeAt c i ++ rest

/-- The patterns of 41_codec_rx.md R175: which entry PE_HANDLE_MSG makes current, as match and mask over the header. -/
def Obligations.ReceivedHeaderPatterns : Prop :=
  ∀ (s : State) (h : Half) (objs : List Obj), ∃ t, exec (.peHandleMsg h objs) s = .next t ∧
    (∀ k < 23, (t.pe.curTable = .ctrl ∧ t.pe.curIndex.toNat = k) ↔ h &&& 0xF01F = BitVec.ofNat 16 k) ∧
    ((t.pe.curTable = .ctrl ∧ t.pe.curIndex.toNat = 23) ↔ (h &&& 0xF01F = 0x0017 ∨ h &&& 0xF018 = 0x0018)) ∧
    (∀ k < 16, (t.pe.curTable = .data ∧ t.pe.curIndex.toNat = k) ↔
      (h &&& 0xC01F = BitVec.ofNat 16 (0x4000 + k) ∨ h &&& 0xE01F = BitVec.ofNat 16 (0x2000 + k)
        ∨ h &&& 0xF01F = BitVec.ofNat 16 (0x1000 + k))) ∧
    ((t.pe.curTable = .data ∧ t.pe.curIndex.toNat = 16) ↔
      (h &&& 0xC010 = 0x4010 ∨ h &&& 0xE010 = 0x2010 ∨ h &&& 0xF010 = 0x1010)) ∧
    (∀ k < 16, (t.pe.curTable = .ext ∧ t.pe.curIndex.toNat = k) ↔ h &&& 0x801F = BitVec.ofNat 16 (0x8000 + k)) ∧
    ((t.pe.curTable = .ext ∧ t.pe.curIndex.toNat = 16) ↔ h &&& 0x8010 = 0x8010) ∧
    (t.pe.curTable = .ctrl ∧ t.pe.curIndex.toNat ≤ 23 ∨ t.pe.curTable = .data ∧ t.pe.curIndex.toNat ≤ 16
      ∨ t.pe.curTable = .ext ∧ t.pe.curIndex.toNat ≤ 16)

/-- `gen_header` and `parse_header` (30_encoding.md R82 to R84), and the same of the extended header (R86). -/
def Obligations.HeaderRoundTrip : Prop :=
  (∀ (typ : BitVec 5) (rev : BitVec 2) (id count : BitVec 3) (ext : BitVec 1),
    (genHeader typ rev id count ext).toNat
      = typ.toNat + rev.toNat * 2 ^ 6 + id.toNat * 2 ^ 9 + count.toNat * 2 ^ 12 + ext.toNat * 2 ^ 15 ∧
    (genHeader typ rev id count ext).getLsbD 5 = false ∧ (genHeader typ rev id count ext).getLsbD 8 = false ∧
    parseHeader (genHeader typ rev id count ext) = ⟨typ, rev, id, count, ext⟩) ∧
  (∀ h : Half, genHeader (parseHeader h).typ (parseHeader h).rev (parseHeader h).id (parseHeader h).count
    (parseHeader h).ext = h &&& 0xFEDF) ∧
  (∀ size : BitVec 9, (genExtHeader size).toNat = size.toNat + 0x8000 ∧ parseExtHeader (genExtHeader size) = (size, 1))

/-- Words written out from the spec's encodings decode to the instructions they stand for: INIT 9000 mV 2000 mA
(30_encoding.md R111: 01, option, two little-endian u16), REQ_OPT, FR_TX_FRAME with one object, PE_SET_PPS, a reserved
op code; GoodCRC with id 3 (type 1, rev 2), Source_Capabilities with two objects, PPS_Status with two; a type above the
CTRL table; and Request with id 5 (0x1082 + 5 * 512) as a transmitted header. A machine with the default MSG_TYPE
codes decodes just so. -/
def Obligations.WrittenOutWordsDecode : Prop :=
  (∀ fmt bs, decodeAt State.reset.params.codes fmt bs = decode fmt bs) ∧
  decode .cmd [0x01, 0x03, 0x28, 0x23, 0xD0, 0x07] = .instr (.init 3 9000 2000) ∧
  decode .cmd [0x09, 0x07] = .instr (.reqOpt 7) ∧
  decode .cmd [0x16, 0x82, 0x10, 0x28, 0x84, 0x03, 0x30] = .instr (.frTxFrame 0x1082 [0x30038428]) ∧
  decode .cmd [0x2A, 0xC2, 0x01, 0x28, 0x01] = .instr (.peSetPps 450 40 1) ∧
  decode .cmd [0x0A] = .instr (.cmdReserved 0x0A) ∧
  decode .rx [0x81, 0x06] = .instr (.rxGoodCrc ⟨2, 3, 0, 0⟩) ∧
  decode .rx [0x81, 0x20, 0x2C, 0x91, 0x01, 0x00, 0xC8, 0xD0, 0x42, 0x8B]
    = .instr (.rxSourceCapabilities ⟨2, 0, 0, 0⟩ [0x0001912C, 0x8B42D0C8]) ∧
  decode .rx [0x8C, 0xA0, 0x04, 0x80, 0xC2, 0x01, 0x28, 0x08, 0x00, 0x00]
    = .instr (.rxPpsStatus ⟨2, 0, 0, 0⟩ [0x01C28004, 0x00000828]) ∧
  decode .rx [0xBE, 0x01] = .instr (.rxCOther 30 ⟨2, 0, 1, 1⟩) ∧
  decode .tx [0x82, 0x1A] = .instr (.txRequest 5)

/-- A step runs the instruction at the head of the command port: its bytes decoded, the environment as the stimulus
brings it, the stimulus consumed; a message's type is read by the machine's MSG_TYPE codes (00_scope.md R9). With nothing
waiting the step leaves the state (70_reset_and_hazards.md R352). A word of the opcode table placed by withFetchWord is run
on the state as it is (log 4, log 7: the model's choice). -/
def Obligations.StepRunsTheDecodedInstruction : Prop :=
  (∀ (s : State) (x : Stimulus) (rest : List Stimulus) (i : Instr), s.port.inbox = x :: rest → x.overlaps = false →
    decodeAt s.params.codes x.fmt x.bytes = .instr i →
    step s = exec i { s with
      env := { s.env with now := s.env.now + x.dt, alert := x.alert, answers := x.answers },
      port := { s.port with inbox := rest } }) ∧
  (∀ s : State, s.port.inbox = [] → step s = .next s) ∧
  (∀ (s : State) (nbits w : Nat) (i : Instr), s.params.codes.wf = true → decodeTableWord nbits w = some i →
    step (s.withFetchWord nbits w) = exec i s)

/-- A command issued while another runs is refused (70_reset_and_hazards.md R371; log 5). -/
def Obligations.OverlappingCommandRefused : Prop :=
  ∀ (s : State) (x : Stimulus) (rest : List Stimulus), s.port.inbox = x :: rest → x.overlaps = true →
    step s = .refused .reentrantCommand

/-- An op code that the command table does not list is answered BadCommand and changes nothing
(30_encoding.md R98, R111; 60_exceptions.md R320). -/
def Obligations.ReservedOpCodesAreBadCommands : Prop :=
  ∀ (op : Byte) (rest : List Byte) (s : State),
    (op = 0 ∨ 0x0A ≤ op.toNat ∧ op.toNat ≤ 0x0F ∨ 0x19 ≤ op.toNat ∧ op.toNat ≤ 0x1F ∨ 0x2F ≤ op.toNat) →
    decode .cmd (op :: rest) = .instr (.cmdReserved op) ∧ exec (.cmdReserved op) s = .next (s.reply [6])

/-! ## Reset and the whole machine -/

/-- What power-on reset leaves in the block (70_reset_and_hazards.md R350), in the order of 10_state.md: every element 0
but VBUS_SENSE_EN. -/
def Obligations.ResetValues : Prop :=
  State.reset.fr = ⟨false, .unattached, .opn, .opn, .none, true, false, 0, 0, 0, ⟨0, 0, 0, 0, 0, 0, 0⟩⟩ ∧
  State.reset.pe = ⟨0, .none, 0, 0, ⟨0, 0, 0, 0, 0, 0, 0⟩, 0, 0, 0, 0, 0, 0, 0⟩ ∧
  State.reset.pl = ⟨false, .notAvailable, 0, 0, false, false, false, 0, 0, 0, 0, 0, 0, 0⟩

/-- The invariants hold after reset (10_state.md R46), and the type codes are well-formed (the parameters in State are
the model's: log 1). -/
def Obligations.InvariantsHoldAtReset : Prop := State.reset.inv = true ∧ State.reset.params.codes.wf = true

/-- Every step keeps the invariants of 10_state.md R46: the list's tail and the selection, the ready snapshot, the open
pins while Unattached, and the legal values of CUR_INDEX and of the received objects. That the MSG_TYPE codes
(00_scope.md R9) are well-formed, each table's a rearrangement of its rows, is a premise, and is kept. -/
def Obligations.EveryStepKeepsTheInvariants : Prop :=
  ∀ s t : State, s.params.codes.wf = true → s.inv = true → step s = .next t →
    t.params.codes.wf = true ∧ t.inv = true

/-- No step writes the parameters (20_memory.md R73), takes back a transport call or a log tuple, or counts fewer
primitives (the trace and the parameters in State are the model's: log 1, log 14, log 17). -/
def Obligations.EveryStepKeepsParametersAndTrace : Prop :=
  ∀ s t : State, step s = .next t → t.params = s.params ∧ s.env.oracle ≤ t.env.oracle ∧
    (∃ cs, t.env.calls = s.env.calls ++ cs) ∧ ∃ l, t.env.log = s.env.log ++ l

/-- "ReadyStatus.PPS is only reachable when the selected PDO's type is Augmented" (10_state.md R38, R46): the only
instruction that makes it PPS is TICK, and then the selection was a live Augmented capability, the values are the
target's, and VBUS sensing is off (44_policy.md R288). -/
def Obligations.PpsOnlyByTickOnAnAugmentedSelection : Prop :=
  ∀ (i : Instr) (s t : State), exec i s = .next t → s.pl.readyStatus ≠ .pps → t.pl.readyStatus = .pps →
    i = .tick ∧ s.pl.ready = true ∧ s.pe.selected.toNat < s.pe.pdoCount.toNat ∧
    (s.pe.srcPdo.get s.pe.selected.toNat).extractLsb' 30 2 = 3 ∧
    t.pl.readyMv.toNat = s.pe.ppsV.toNat * 20 ∧ t.pl.readyMa.toNat = s.pe.ppsI.toNat * 50 ∧
    t.pl.waitPsRdy = false ∧ t.fr.vbusSenseEn = false

/-- Ownership (10_state.md R21): every instruction answers a next state, and the units whose operations it does not
run keep their registers; no command but INIT, TICK and the framer's touches the transport. -/
def Obligations.UnitsKeepTheirOwnRegisters : Prop :=
  ∀ (i : Instr) (s : State), ∃ t, exec i s = .next t ∧ t.params = s.params ∧ t.port.inbox = s.port.inbox ∧
    (match i with
      | .init _ _ _ | .tick => True
      | .isTrans | .getMv | .getMa | .getMw | .getReady | .frReadCc | .frReadVbus | .frReadId | .frGetRx
      | .peRespond | .peEvaluate _ _ | .peCreateGetSrcCap | .peCreateGetPpsStatus | .peCreateRequest
      | .peGetPowerInfo _ | .peGetSelected | .peGetPpsStatus | .peGetTarget | .cmdReserved _
      | .txAccept _ | .txReject _ | .txGetSourceCap _ | .txNotSupported _ | .txGetPpsStatus _ | .txRequest _
      | .txSinkCapabilities _ | .txSinkCapabilitiesExtended _ =>
        t.fr = s.fr ∧ t.pe = s.pe ∧ t.pl = s.pl ∧ t.env = s.env
      | .reqPps _ _ | .reqOpt _ => t.fr = s.fr ∧ t.env = s.env
      | .frInit | .frPoll | .frTxFrame _ _ | .frTxHardReset => t.pe = s.pe ∧ t.pl = s.pl
      | .frSetVbusSense _ => t.pe = s.pe ∧ t.pl = s.pl ∧ t.env = s.env
      | _ => t.fr = s.fr ∧ t.pl = s.pl ∧ t.env = s.env)

/-! ## FR, the framer -/

/-- FR_INIT (40_framer.md R131): the five primitives in order; where the first one fails, and at which status; an
unrecognised identification; and what success writes. -/
def Obligations.FrInitRule : Prop :=
  ∀ s : State,
    let a := s.env.answerAt
    let s0 := { s with fr := { s.fr with ready := false } }
    let s1 := s0.after [.swReset, .readId]
    let s2 := { s1 with fr := { s1.fr with devId := (a 1).byte } }
    let c1 : List XCall := [.configure 3 [.vbusOk, .activity, .crcCheck, .collision, .hardReset, .retryFail, .goodCrcSent]]
    let c2 : List XCall := c1 ++ [.power .oscillator]
    let c3 : List XCall := c2 ++ [.setVbusMask true]
    (∀ e, (a 0).fail = some e → exec .frInit s = .next ((s0.after [.swReset]).reply [errorByte e])) ∧
    (s.succeeds 0 = true → s.succeeds 1 = false → exec .frInit s = .next (s1.reply [2])) ∧
    (s.succeeds 0 = true → s.succeeds 1 = true → idRecognised s.params (a 1).byte = false →
      exec .frInit s = .next (s2.reply [4])) ∧
    (s.succeeds 0 = true → s.succeeds 1 = true → idRecognised s.params (a 1).byte = true →
      (∀ e, (a 2).fail = some e → exec .frInit s = .next ((s2.after c1).reply [errorByte e])) ∧
      (∀ e, s.succeeds 2 = true → (a 3).fail = some e →
        exec .frInit s = .next ((s2.after c2).reply [errorByte e])) ∧
      (∀ e, s.succeeds 2 = true → s.succeeds 3 = true → (a 4).fail = some e →
        exec .frInit s = .next ((s2.after c3).reply [errorByte e])) ∧
      (s.succeeds 2 = true → s.succeeds 3 = true → s.succeeds 4 = true →
        exec .frInit s = .next (State.reply { s2.after c3 with
          fr := ⟨true, .unattached, .opn, .opn, .none, true, false, (a 1).byte, s.fr.rxToken, s.fr.rxHdr, s.fr.rxObj⟩ }
          [0])))

/-- The gate (40_framer.md R130): with FR_READY = 0 the four gated commands answer NotInitialised, touch no transport
and change nothing; the four accessors answer all the same, and right after reset the reset values. -/
def Obligations.FrGate : Prop :=
  (∀ s : State, s.fr.ready = false →
    exec .frPoll s = .next (s.reply [5, 0]) ∧
    (∀ en, exec (.frSetVbusSense en) s = .next (s.reply [5])) ∧
    (∀ h objs, exec (.frTxFrame h objs) s = .next (s.reply [5])) ∧
    exec .frTxHardReset s = .next (s.reply [5]) ∧
    (∃ bs, exec .frReadCc s = .next (s.reply bs)) ∧ (∃ bs, exec .frReadVbus s = .next (s.reply bs)) ∧
    (∃ bs, exec .frReadId s = .next (s.reply bs)) ∧ ∃ bs, exec .frGetRx s = .next (s.reply bs)) ∧
  exec .frReadCc State.reset = .next (State.reset.reply [0, 0]) ∧
  exec .frReadVbus State.reset = .next (State.reset.reply [0]) ∧
  exec .frReadId State.reset = .next (State.reset.reply [0]) ∧
  exec .frGetRx State.reset = .next (State.reset.reply (List.replicate 30 0))

/-- Every FR_POLL (40_framer.md R132, R134, R140; 44_policy.md R276): a status and an event byte; "The event set is
empty whenever the status is not OK", and then no register but VBUS_LAST has changed; what each event set goes with. -/
def Obligations.PollOutcomes : Prop :=
  ∀ s : State, ∃ t st ev, exec .frPoll s = .next t ∧ t.port.reply = [st, ev] ∧
    t.pe = s.pe ∧ t.pl = s.pl ∧ t.params = s.params ∧ t.port.inbox = s.port.inbox ∧ t.env.log = s.env.log ∧
    st ∈ [0, 1, 2, 3, 5] ∧ ev ∈ [0, 1, 2, 4, 8, 12] ∧
    (st ≠ 0 → ev = 0 ∧ t.fr = { s.fr with vbusLast := t.fr.vbusLast }) ∧
    (st = 1 → s.fr.attach = .unattached) ∧
    (ev = 1 → s.fr.attach = .unattached ∧ t.fr.attach = .attached) ∧
    (ev = 2 → s.fr.attach = .attached ∧ t.fr.attach = .unattached ∧ s.fr.vbusSenseEn = true) ∧
    (ev ≠ 1 → ev ≠ 2 → t.fr.attach = s.fr.attach ∧ t.fr.cc1 = s.fr.cc1 ∧ t.fr.cc2 = s.fr.cc2 ∧ t.fr.ccSel = s.fr.ccSel) ∧
    (ev ≠ 4 → ev ≠ 12 → t.fr.rxToken = s.fr.rxToken ∧ t.fr.rxHdr = s.fr.rxHdr ∧ t.fr.rxObj = s.fr.rxObj)

/-- The status read fails in either arm (40_framer.md R133, R136), or VBUS is absent while Unattached (R133). -/
def Obligations.PollWithoutVbus : Prop :=
  ∀ s : State, s.fr.ready = true →
    (s.succeeds 0 = false → exec .frPoll s = .next ((s.after [.readStatus]).reply [2, 0])) ∧
    (s.succeeds 0 = true → s.fr.attach = .unattached → (s.env.answerAt 0).status.vbusOk = false →
      exec .frPoll s = .next (State.reply { s.after [.readStatus] with fr := { s.fr with vbusLast := false } } [0, 0]))

/-- The attach (40_framer.md R133, R134): both pins read stable, six equal samples each; the pin that alone is not open is
selected; otherwise a poll of the Unattached arm changes no register but VBUS_LAST. A primitive that fails, power(Measure)
at the start or clear_interrupts or set_cc at the end, stops the arm with its error and no event. -/
def Obligations.PollAttach : Prop :=
  ∀ s : State, s.fr.ready = true → s.fr.attach = .unattached →
    (∀ l1 l2 : LineLevel, (s.env.answerAt 0).status.vbusOk = true → (∀ k < 16, s.succeeds k = true) →
      (∀ k < 6, (s.env.answerAt (2 + k)).level = l1) → (∀ k < 6, (s.env.answerAt (8 + k)).level = l2) →
      let sel : CcSel := if l1 ≠ .opn ∧ l2 = .opn then .cc1 else if l2 ≠ .opn ∧ l1 = .opn then .cc2 else .none
      exec .frPoll s = .next (State.reply
        { s.after ([.readStatus, .power .measure] ++ sampleCalls s.params .cc1 5 ++ sampleCalls s.params .cc2 5
            ++ [.clearInterrupts, .setCc sel]) with
          fr := { s.fr with vbusLast := true, cc1 := l1, cc2 := l2, ccSel := sel, attach := .attached } } [0, 1])) ∧
    (∀ e, s.succeeds 0 = true → (s.env.answerAt 0).status.vbusOk = true → (s.env.answerAt 1).fail = some e →
      exec .frPoll s = .next (State.reply
        { s.after [.readStatus, .power .measure] with fr := { s.fr with vbusLast := true } } [errorByte e, 0])) ∧
    (∀ (l1 l2 : LineLevel) (e : TransportError), (s.env.answerAt 0).status.vbusOk = true →
      (∀ k < 14, s.succeeds k = true) → (∀ k < 6, (s.env.answerAt (2 + k)).level = l1) →
      (∀ k < 6, (s.env.answerAt (8 + k)).level = l2) →
      let sel : CcSel := if l1 ≠ .opn ∧ l2 = .opn then .cc1 else if l2 ≠ .opn ∧ l1 = .opn then .cc2 else .none
      let sampled : List XCall :=
        [.readStatus, .power .measure] ++ sampleCalls s.params .cc1 5 ++ sampleCalls s.params .cc2 5
      ((s.env.answerAt 14).fail = some e →
        exec .frPoll s = .next (State.reply
          { s.after (sampled ++ [.clearInterrupts]) with fr := { s.fr with vbusLast := true } } [errorByte e, 0])) ∧
      (s.succeeds 14 = true → (s.env.answerAt 15).fail = some e →
        exec .frPoll s = .next (State.reply
          { s.after (sampled ++ [.clearInterrupts, .setCc sel]) with fr := { s.fr with vbusLast := true } }
          [errorByte e, 0]))) ∧
    ∃ t, exec .frPoll s = .next t ∧ (t.port.reply ≠ [0, 1] → t.fr = { s.fr with vbusLast := t.fr.vbusLast })

/-- Busy (40_framer.md R135): "the first disagreement stops the check", on the first pin or, the first one stable, on
the second; "On Busy nothing is written" but VBUS_LAST, which the status read wrote. A sample that fails, the first one or
a resample of either pin, stops the check with its error in the same way. -/
def Obligations.PollBusy : Prop :=
  ∀ (s : State) (j : Nat), s.fr.ready = true → s.fr.attach = .unattached →
    (s.env.answerAt 0).status.vbusOk = true → j < 5 →
    (∀ (n : Nat) (e : TransportError), n ≤ 5 → (∀ k < 2 + n, s.succeeds k = true) →
      (∀ k < n, (s.env.answerAt (2 + k)).level = (s.env.answerAt 2).level) →
      (s.env.answerAt (2 + n)).fail = some e →
      exec .frPoll s = .next (State.reply
        { s.after ([.readStatus, .power .measure] ++ sampleCalls s.params .cc1 n) with
          fr := { s.fr with vbusLast := true } } [errorByte e, 0])) ∧
    (∀ (n : Nat) (e : TransportError), n ≤ 5 → (∀ k < 8 + n, s.succeeds k = true) →
      (∀ k < 6, (s.env.answerAt (2 + k)).level = (s.env.answerAt 2).level) →
      (∀ k < n, (s.env.answerAt (8 + k)).level = (s.env.answerAt 8).level) →
      (s.env.answerAt (8 + n)).fail = some e →
      exec .frPoll s = .next (State.reply
        { s.after ([.readStatus, .power .measure] ++ sampleCalls s.params .cc1 5 ++ sampleCalls s.params .cc2 n) with
          fr := { s.fr with vbusLast := true } } [errorByte e, 0])) ∧
    ((∀ k ≤ 3 + j, s.succeeds k = true) →
      (∀ k < j, (s.env.answerAt (3 + k)).level = (s.env.answerAt 2).level) →
      (s.env.answerAt (3 + j)).level ≠ (s.env.answerAt 2).level →
      exec .frPoll s = .next (State.reply
        { s.after ([.readStatus, .power .measure] ++ sampleCalls s.params .cc1 (j + 1)) with
          fr := { s.fr with vbusLast := true } } [1, 0])) ∧
    ((∀ k ≤ 9 + j, s.succeeds k = true) →
      (∀ k < 5, (s.env.answerAt (3 + k)).level = (s.env.answerAt 2).level) →
      (∀ k < j, (s.env.answerAt (9 + k)).level = (s.env.answerAt 8).level) →
      (s.env.answerAt (9 + j)).level ≠ (s.env.answerAt 8).level →
      exec .frPoll s = .next (State.reply
        { s.after ([.readStatus, .power .measure] ++ sampleCalls s.params .cc1 5
            ++ sampleCalls s.params .cc2 (j + 1)) with
          fr := { s.fr with vbusLast := true } } [1, 0]))

/-- The detach (40_framer.md R136): VBUS sensing on and VBUS gone; a transport failure in the teardown leaves the block
Attached. -/
def Obligations.PollDetach : Prop :=
  ∀ s : State, s.fr.ready = true → s.fr.attach = .attached → s.fr.vbusSenseEn = true → s.succeeds 0 = true →
    (s.env.answerAt 0).status.vbusOk = false →
    let still := { s.fr with vbusLast := false }
    (∀ e, (s.env.answerAt 1).fail = some e →
      exec .frPoll s = .next (State.reply { s.after [.readStatus, .teardown] with fr := still } [errorByte e, 0])) ∧
    (∀ e, s.succeeds 1 = true → (s.env.answerAt 2).fail = some e →
      exec .frPoll s = .next (State.reply
        { s.after [.readStatus, .teardown, .power .oscillator] with fr := still } [errorByte e, 0])) ∧
    (s.succeeds 1 = true → s.succeeds 2 = true →
      exec .frPoll s = .next (State.reply
        { s.after [.readStatus, .teardown, .power .oscillator] with
          fr := { still with cc1 := .opn, cc2 := .opn, ccSel := .none, attach := .unattached } } [0, 2]))

/-- The latched flags (40_framer.md R137): a latched hard reset is answered with a reset pulse and no event, whatever
else is latched; a latched good-CRC-sent is cleared and, with the receive FIFO empty, is the only event. -/
def Obligations.PollLatchedFlags : Prop :=
  ∀ s : State, s.fr.ready = true → s.fr.attach = .attached → s.succeeds 0 = true →
    (s.fr.vbusSenseEn = false ∨ (s.env.answerAt 0).status.vbusOk = true) →
    let x := (s.env.answerAt 0).status
    let f := { s.fr with vbusLast := x.vbusOk }
    (x.iHardReset = true →
      (∀ e, (s.env.answerAt 1).fail = some e →
        exec .frPoll s = .next (State.reply { s.after [.readStatus, .pdReset] with fr := f } [errorByte e, 0])) ∧
      (s.succeeds 1 = true →
        exec .frPoll s = .next (State.reply { s.after [.readStatus, .pdReset] with fr := f } [0, 0]))) ∧
    (x.iHardReset = false → x.iGcrcSent = true →
      (∀ e, (s.env.answerAt 1).fail = some e →
        exec .frPoll s = .next (State.reply { s.after [.readStatus, .clearGcrcSent] with fr := f } [errorByte e, 0])) ∧
      (s.succeeds 1 = true → x.rxEmpty = true →
        exec .frPoll s = .next (State.reply { s.after [.readStatus, .clearGcrcSent] with fr := f } [0, 8]))) ∧
    (x.iHardReset = false → x.iGcrcSent = false → x.rxEmpty = true →
      exec .frPoll s = .next (State.reply { s.after [.readStatus] with fr := f } [0, 0]))

/-- The unframer (40_framer.md R138): three bytes, then 4 * count + N_CRC_BYTES; token, header and the count's objects
stored together, the objects little-endian, 0 above them; RxFrame, with GoodCrcSent if that was latched. The bytes are
whatever the FIFO gives, free ones where it held fewer (20_memory.md R66). -/
def Obligations.PollReceivesOneFrame : Prop :=
  ∀ (s : State) (b0 b1 b2 : Byte) (p : List Byte) (objs : List Obj), s.fr.ready = true → s.fr.attach = .attached →
    let x := (s.env.answerAt 0).status
    (s.fr.vbusSenseEn = false ∨ x.vbusOk = true) → x.iHardReset = false → x.rxEmpty = false →
    let k := if x.iGcrcSent then 2 else 1
    let n := b2.toNat / 16 % 8
    (∀ j < k + 2, s.succeeds j = true) → s.bytesAt k 3 = [b0, b1, b2] →
    s.bytesAt (k + 1) (4 * n + s.params.nCrcBytes) = p → objs.length = n →
    (∀ i < n, (objs.getD i 0).toNat = (p.getD (4 * i) 0).toNat + (p.getD (4 * i + 1) 0).toNat * 2 ^ 8
      + (p.getD (4 * i + 2) 0).toNat * 2 ^ 16 + (p.getD (4 * i + 3) 0).toNat * 2 ^ 24) →
    exec .frPoll s = .next (State.reply
      { s.after ([.readStatus] ++ (if x.iGcrcSent then [.clearGcrcSent] else [])
          ++ [.rxRead 3, .rxRead (4 * n + s.params.nCrcBytes)]) with
        fr := { s.fr with
          vbusLast := x.vbusOk
          rxToken := b0
          rxHdr := BitVec.ofNat 16 (b1.toNat + b2.toNat * 2 ^ 8)
          rxObj := ⟨objs.getD 0 0, objs.getD 1 0, objs.getD 2 0, objs.getD 3 0, objs.getD 4 0, objs.getD 5 0,
            objs.getD 6 0⟩ } }
      [0, if x.iGcrcSent then 12 else 4])

/-- RX_FAIL (40_framer.md R139): a failed read of either part of a frame flushes the FIFO, "ignoring whether the flush
itself succeeds", keeps the frame registers and answers ReadError with no event, a GoodCrcSent of the same poll
dropped. -/
def Obligations.PollDropsAFrameItCannotRead : Prop :=
  ∀ (s : State), s.fr.ready = true → s.fr.attach = .attached →
    let x := (s.env.answerAt 0).status
    (s.fr.vbusSenseEn = false ∨ x.vbusOk = true) → x.iHardReset = false → x.rxEmpty = false →
    let k := if x.iGcrcSent then 2 else 1
    let first : List XCall := [.readStatus] ++ (if x.iGcrcSent then [.clearGcrcSent] else [])
    let f := { s.fr with vbusLast := x.vbusOk }
    (∀ j < k, s.succeeds j = true) →
    (s.succeeds k = false →
      exec .frPoll s = .next (State.reply { s.after (first ++ [.rxRead 3, .rxFlush]) with fr := f } [2, 0])) ∧
    (∀ b0 b1 b2 : Byte, s.succeeds k = true → s.bytesAt k 3 = [b0, b1, b2] → s.succeeds (k + 1) = false →
      exec .frPoll s = .next (State.reply
        { s.after (first ++ [.rxRead 3, .rxRead (4 * (b2.toNat / 16 % 8) + s.params.nCrcBytes), .rxFlush]) with
          fr := f } [2, 0]))

/-- The framer's small operations (40_framer.md R141 to R144, R147): FR_SET_VBUS_SENSE, where any non-zero operand counts
as 1, and the accessors, which answer registers as bytes and change nothing; none touches the transport. -/
def Obligations.SmallFramerOperations : Prop :=
  ∀ s : State,
    (∀ en : Byte, s.fr.ready = true → en = 0 →
      exec (.frSetVbusSense en) s = .next (State.reply { s with fr := { s.fr with vbusSenseEn := false } } [0])) ∧
    (∀ en : Byte, s.fr.ready = true → en ≠ 0 →
      exec (.frSetVbusSense en) s = .next (State.reply { s with fr := { s.fr with vbusSenseEn := true } } [0])) ∧
    (∀ en : Byte, s.fr.ready = false → exec (.frSetVbusSense en) s = .next (s.reply [5])) ∧
    exec .frReadCc s = .next (s.reply
      [match s.fr.cc1 with | .opn => 0 | .rdUsb => 1 | .rd1A5 => 2 | .rd3A0 => 3,
       match s.fr.cc2 with | .opn => 0 | .rdUsb => 1 | .rd1A5 => 2 | .rd3A0 => 3]) ∧
    exec .frReadVbus s = .next (s.reply [if s.fr.vbusLast then 1 else 0]) ∧
    exec .frReadId s = .next (s.reply [s.fr.devId]) ∧
    exec .frGetRx s = .next (s.reply (le16 s.fr.rxHdr ++ le32 s.fr.rxObj.o0 ++ le32 s.fr.rxObj.o1 ++ le32 s.fr.rxObj.o2
      ++ le32 s.fr.rxObj.o3 ++ le32 s.fr.rxObj.o4 ++ le32 s.fr.rxObj.o5 ++ le32 s.fr.rxObj.o6))

/-- FR_TX_FRAME (40_framer.md R145; layout 30_encoding.md R89): the whole frame in one write, the header's count of
objects, 11 + 4 * count bytes; on a failure WriteError; NotInitialised before FR_INIT. -/
def Obligations.TxFrameRule : Prop :=
  ∀ (s : State) (h : Half) (objs : List Obj),
    (s.fr.ready = false → exec (.frTxFrame h objs) s = .next (s.reply [5])) ∧
    (s.fr.ready = true →
      let n := h.toNat / 2 ^ 12 % 8
      n ≤ objs.length →
      let p := s.params
      let bytes := [p.tokSop1, p.tokSop1, p.tokSop1, p.tokSop2, p.tokPackSym + BitVec.ofNat 8 (2 + 4 * n),
          BitVec.ofNat 8 h.toNat, BitVec.ofNat 8 (h.toNat / 2 ^ 8)]
        ++ (objs.take n).flatMap (fun o => [BitVec.ofNat 8 o.toNat, BitVec.ofNat 8 (o.toNat / 2 ^ 8),
            BitVec.ofNat 8 (o.toNat / 2 ^ 16), BitVec.ofNat 8 (o.toNat / 2 ^ 24)])
        ++ [p.tokJamCrc, p.tokEop, p.tokTxOff, p.tokTxOn]
      bytes.length = 11 + 4 * n ∧
      (s.succeeds 0 = true → exec (.frTxFrame h objs) s = .next ((s.after [.txWrite bytes]).reply [0])) ∧
      (s.succeeds 0 = false → exec (.frTxFrame h objs) s = .next ((s.after [.txWrite bytes]).reply [3])))

/-- FR_TX_HARD_RESET (40_framer.md R146): hard-reset signalling, the settle time, a protocol reset; no block register
changes; NotInitialised before FR_INIT. -/
def Obligations.TxHardResetRule : Prop :=
  ∀ s : State,
    (s.fr.ready = false → exec .frTxHardReset s = .next (s.reply [5])) ∧
    (s.fr.ready = true →
      let cs : List XCall := [.sendHardReset, .delayMs s.params.tHardResetSettleMs, .pdReset]
      (∀ e, (s.env.answerAt 0).fail = some e →
        exec .frTxHardReset s = .next ((s.after [.sendHardReset]).reply [errorByte e])) ∧
      (∀ e, s.succeeds 0 = true → (s.env.answerAt 1).fail = some e →
        exec .frTxHardReset s = .next ((s.after cs).reply [errorByte e])) ∧
      (s.succeeds 0 = true → s.succeeds 1 = true → exec .frTxHardReset s = .next ((s.after cs).reply [0])))

/-! ## PE, received messages -/

/-- PE_HANDLE_MSG on a frame does what the received message does that its header selects (41_codec_rx.md R170, R175)
under the machine's MSG_TYPE codes; under the default ones that is the header's own type. -/
def Obligations.HandleMsgRunsTheReceivedMessage : Prop :=
  ∀ (h : Half) (objs : List Obj) (s : State), s.params.codes.wf = true → objs.length = h.toNat / 2 ^ 12 % 8 →
    exec (.peHandleMsg h objs) s = exec (rxInstr (toTableCode s.params.codes h) objs) s ∧
    (s.params.codes = defaultCodes → exec (.peHandleMsg h objs) s = exec (rxInstr h objs) s)

/-- The control messages with no handler, GotoMin to Get_PPS_Status (41_codec_rx.md R411 to R421) and C_Reserved0
(R410): only the current message changes, no event, and PE_RESPOND then builds Not_Supported; PE_HANDLE_MSG does the same on
every header of the type with ext 0 and count 0. -/
def Obligations.UnnamedControlMessages : Prop :=
  ∀ (f : RxFields) (s : State), s.params.codes.wf = true →
    (s.params.codes = defaultCodes → ∀ t k, typeCode s.params t k = k) ∧
    ∀ p ∈ [(Instr.rxCReserved0 f, 0), (.rxGotoMin f, 2), (.rxPing f, 5),
      (.rxGetSourceCap f, 7), (.rxWait f, 12), (.rxDataReset f, 14), (.rxDataResetComplete f, 15),
      (.rxNotSupported f, 16), (.rxGetSourceCapExtended f, 17), (.rxGetStatus f, 18), (.rxFrSwap f, 19),
      (.rxGetPpsStatus f, 20)],
    let k := typeCode s.params .ctrl p.2
    let t := State.reply { s with pe := { s.pe with curTable := .ctrl, curIndex := k } } [0]
    exec p.1 s = .next t ∧
    (∀ h : Half, h.toNat % 2 ^ 5 = k.toNat → h.toNat / 2 ^ 12 = 0 → exec (.peHandleMsg h []) s = .next t) ∧
    exec .peRespond t = .next (t.reply (1 :: le16
      (BitVec.ofNat 16 (0x0080 + (typeCode s.params .ctrl 16).toNat + s.pe.msgId.toNat * 2 ^ 9))))

/-- The data messages with no handler, D_Reserved0 to D_Reserved13 (41_codec_rx.md R423 to R434), whatever their
objects; PE_HANDLE_MSG does the same on every header of the type with ext 0 and the objects' count, 1 to 7. -/
def Obligations.UnnamedDataMessages : Prop :=
  ∀ (f : RxFields) (objs : List Obj) (s : State), s.params.codes.wf = true →
    (s.params.codes = defaultCodes → ∀ t k, typeCode s.params t k = k) ∧
    ∀ p ∈ [(Instr.rxDReserved0 f objs, 0), (.rxRequest f objs, 2),
      (.rxSinkCapabilities f objs, 4), (.rxBatteryStatus f objs, 5), (.rxAlert f objs, 6),
      (.rxGetCountryInfo f objs, 7), (.rxEnterUsb f objs, 8), (.rxDReserved9 f objs, 9), (.rxDReserved10 f objs, 10),
      (.rxDReserved11 f objs, 11), (.rxDReserved12 f objs, 12), (.rxDReserved13 f objs, 13)],
    let k := typeCode s.params .data p.2
    let t := State.reply { s with pe := { s.pe with curTable := .data, curIndex := k } } [0]
    exec p.1 s = .next t ∧
    (∀ h : Half, h.toNat % 2 ^ 5 = k.toNat → h.toNat / 2 ^ 12 = objs.length → 1 ≤ objs.length → objs.length ≤ 7 →
      exec (.peHandleMsg h objs) s = .next t) ∧
    exec .peRespond t = .next (t.reply (1 :: le16
      (BitVec.ofNat 16 (0x0080 + (typeCode s.params .ctrl 16).toNat + s.pe.msgId.toNat * 2 ^ 9))))

/-- The extended messages with no handler, E_Reserved0 to Firmware_Update_Response (41_codec_rx.md R436 to R447),
whatever their objects; PE_HANDLE_MSG does the same on every header of the type with ext 1 and the objects' count. -/
def Obligations.UnnamedExtendedMessages : Prop :=
  ∀ (f : RxFields) (objs : List Obj) (s : State), s.params.codes.wf = true →
    (s.params.codes = defaultCodes → ∀ t k, typeCode s.params t k = k) ∧
    ∀ p ∈ [(Instr.rxEReserved0 f objs, 0),
      (.rxSourceCapabilitiesExtended f objs, 1), (.rxStatus f objs, 2), (.rxGetBatteryCap f objs, 3),
      (.rxGetBatteryStatus f objs, 4), (.rxBatteryCapabilities f objs, 5), (.rxGetManufacturerInfo f objs, 6),
      (.rxManufacturerInfo f objs, 7), (.rxSecurityRequest f objs, 8), (.rxSecurityResponse f objs, 9),
      (.rxFirmwareUpdateRequest f objs, 10), (.rxFirmwareUpdateResponse f objs, 11)],
    let k := typeCode s.params .ext p.2
    let t := State.reply { s with pe := { s.pe with curTable := .ext, curIndex := k } } [0]
    exec p.1 s = .next t ∧
    (∀ h : Half, h.toNat % 2 ^ 5 = k.toNat → h.toNat / 2 ^ 12 = 8 + objs.length →
      exec (.peHandleMsg h objs) s = .next t) ∧
    exec .peRespond t = .next (t.reply (1 :: le16
      (BitVec.ofNat 16 (0x0080 + (typeCode s.params .ctrl 16).toNat + s.pe.msgId.toNat * 2 ^ 9))))

/-- The remaining entries answered Not_Supported: Get_Country_Codes, D_Reserved14, Country_Info, Country_Codes,
Sink_Capabilities_Extended (41_codec_rx.md R422, R435, R448 to R450), Vendor_Defined (R188) and the three catch-alls
(R189, R190, R192), whatever type they were reached by: PE_HANDLE_MSG does the same on every header whose type, cut to
the table's last index, is the entry's. -/
def Obligations.CatchAllAndRemainingMessages : Prop :=
  ∀ (f : RxFields) (typ : BitVec 5) (objs : List Obj) (s : State), s.params.codes.wf = true →
    (s.params.codes = defaultCodes → ∀ t k, typeCode s.params t k = k) ∧
    ∀ p ∈ [(Instr.rxGetCountryCodes f, Table.ctrl, 21),
      (.rxDReserved14 f objs, .data, 14), (.rxCountryInfo f objs, .ext, 13), (.rxCountryCodes f objs, .ext, 14),
      (.rxSinkCapabilitiesExtended f objs, .ext, 15), (.rxVendorDefined f objs, .data, 15),
      (.rxCOther typ f, .ctrl, 23), (.rxDOther typ f objs, .data, 16), (.rxEOther typ f objs, .ext, 16)],
    let k := typeCode s.params p.2.1 p.2.2
    let t := State.reply { s with pe := { s.pe with curTable := p.2.1, curIndex := k } } [0]
    exec p.1 s = .next t ∧
    (∀ h : Half,
      (p.2.1 = .ctrl → min (h.toNat % 2 ^ 5) 23 = k.toNat → h.toNat / 2 ^ 12 = 0 →
        exec (.peHandleMsg h []) s = .next t) ∧
      (p.2.1 = .data → min (h.toNat % 2 ^ 5) 16 = k.toNat → h.toNat / 2 ^ 12 = objs.length → 1 ≤ objs.length →
        objs.length ≤ 7 → exec (.peHandleMsg h objs) s = .next t) ∧
      (p.2.1 = .ext → min (h.toNat % 2 ^ 5) 16 = k.toNat → h.toNat / 2 ^ 12 = 8 + objs.length →
        exec (.peHandleMsg h objs) s = .next t)) ∧
    exec .peRespond t = .next (t.reply (1 :: le16
      (BitVec.ofNat 16 (0x0080 + (typeCode s.params .ctrl 16).toNat + s.pe.msgId.toNat * 2 ^ 9))))

/-- GoodCRC (41_codec_rx.md R176): the message id advances by one modulo 8 whatever the frame's own id, no event, no
responder (PE_RESPOND answers false, 42_codec_tx.md R210; that its answer is then the one byte 0 is log 15's choice);
PE_HANDLE_MSG does so on every header of its type, 1 by default, with ext 0 and count 0; and n of them, one after another,
advance it by n modulo 8. -/
def Obligations.GoodCrcAdvancesTheMessageId : Prop :=
  (∀ (f : RxFields) (s : State), s.params.codes.wf = true →
    let k := typeCode s.params .ctrl 1
    let t := State.reply { s with pe := { s.pe with
      msgId := BitVec.ofNat 3 ((s.pe.msgId.toNat + 1) % 8)
      curTable := .ctrl
      curIndex := k } } [0]
    (s.params.codes = defaultCodes → k = 1) ∧
    exec (.rxGoodCrc f) s = .next t ∧ exec .peRespond t = .next (t.reply [0]) ∧
    ∀ h : Half, h.toNat % 2 ^ 5 = k.toNat → h.toNat / 2 ^ 12 = 0 → exec (.peHandleMsg h []) s = .next t) ∧
  ∀ (fs : List RxFields) (s : State), ∃ t, runAll (fs.map .rxGoodCrc) s = .next t ∧
    t.pe.msgId.toNat = (s.pe.msgId.toNat + fs.length) % 8

/-- Accept, PS_RDY, Reject under either policy, BIST and PPS_Status (41_codec_rx.md R177 to R179, R187, R191; layout
30_encoding.md R108): the current message, the event, for PPS_Status three fields of the first two objects, an absent
one read as 0; and no reply (PE_RESPOND answers false, 42_codec_tx.md R210; that its answer is then the one byte 0 is log
15's choice). PE_HANDLE_MSG does the same on every header of these types. -/
def Obligations.MessagesWithoutReply : Prop :=
  ∀ (f : RxFields) (objs : List Obj) (s : State), s.params.codes.wf = true →
    let code (t : Table) (k : BitVec 5) : Nat := (typeCode s.params t k).toNat
    let cur (t : Table) (k : BitVec 5) (ev : Byte) : State :=
      State.reply { s with pe := { s.pe with curTable := t, curIndex := typeCode s.params t k } } [ev]
    let o0 := (objs.getD 0 0).toNat
    let o1 := (objs.getD 1 0).toNat
    let status := State.reply { s with pe := { s.pe with
      curTable := .ext
      curIndex := typeCode s.params .ext 12
      ppssV := BitVec.ofNat 16 (o0 / 2 ^ 16)
      ppssI := BitVec.ofNat 8 (o1 % 2 ^ 8)
      ppssFlags := BitVec.ofNat 8 (o1 / 2 ^ 8 % 2 ^ 8) } } [0x08]
    (s.params.codes = defaultCodes → ∀ t k, typeCode s.params t k = k) ∧
    exec (.rxAccept f) s = .next (cur .ctrl 3 0x04) ∧
    exec (.rxPsRdy f) s = .next (cur .ctrl 6 0x02) ∧
    (s.params.rejectPolicy = .asPsRdy → exec (.rxReject f) s = .next (cur .ctrl 4 0x02)) ∧
    (s.params.rejectPolicy = .distinct → exec (.rxReject f) s = .next (cur .ctrl 4 0x10)) ∧
    exec (.rxBist f objs) s = .next (cur .data 3 0x00) ∧
    exec (.rxPpsStatus f objs) s = .next status ∧ exec .peRespond status = .next (status.reply [0]) ∧
    (∀ p ∈ [(Table.ctrl, 3), (.ctrl, 6), (.ctrl, 4), (.data, 3)], ∀ ev,
      exec .peRespond (cur p.1 p.2 ev) = .next ((cur p.1 p.2 ev).reply [0])) ∧
    ∀ h : Half,
      (h.toNat / 2 ^ 12 = 0 →
        (h.toNat % 2 ^ 5 = code .ctrl 3 → exec (.peHandleMsg h []) s = .next (cur .ctrl 3 0x04)) ∧
        (h.toNat % 2 ^ 5 = code .ctrl 6 → exec (.peHandleMsg h []) s = .next (cur .ctrl 6 0x02)) ∧
        (h.toNat % 2 ^ 5 = code .ctrl 4 → s.params.rejectPolicy = .asPsRdy →
          exec (.peHandleMsg h []) s = .next (cur .ctrl 4 0x02)) ∧
        (h.toNat % 2 ^ 5 = code .ctrl 4 → s.params.rejectPolicy = .distinct →
          exec (.peHandleMsg h []) s = .next (cur .ctrl 4 0x10))) ∧
      (h.toNat % 2 ^ 5 = code .data 3 → h.toNat / 2 ^ 12 = objs.length → 1 ≤ objs.length → objs.length ≤ 7 →
        exec (.peHandleMsg h objs) s = .next (cur .data 3 0x00)) ∧
      (h.toNat % 2 ^ 5 = code .ext 12 → h.toNat / 2 ^ 12 = 8 + objs.length →
        exec (.peHandleMsg h objs) s = .next status)

/-- The control messages the block answers (41_codec_rx.md R180 to R185; 42_codec_tx.md R212 to R215): no event, no
state change but the current message (no MSG_ID reset on Soft_Reset), and the reply PE_RESPOND then builds;
PE_HANDLE_MSG does the same on every header of these types with ext 0 and count 0. -/
def Obligations.MessagesWithReply : Prop :=
  ∀ (f : RxFields) (s : State), s.params.codes.wf = true →
    let cur (k : BitVec 5) : State :=
      State.reply { s with pe := { s.pe with curTable := .ctrl, curIndex := typeCode s.params .ctrl k } } [0]
    let hdr (n : Nat) (t : Table) (k : BitVec 5) : List Byte :=
      le16 (BitVec.ofNat 16 (n + (typeCode s.params t k).toNat + s.pe.msgId.toNat * 2 ^ 9))
    (s.params.codes = defaultCodes → ∀ t k, typeCode s.params t k = k) ∧
    (exec (.rxGetSinkCap f) s = .next (cur 8) ∧
      exec .peRespond (cur 8) = .next ((cur 8).reply (1 :: (hdr 0x1080 .data 4 ++ [0x64, 0x90, 0x01, 0x00])))) ∧
    (exec (.rxDrSwap f) s = .next (cur 9) ∧ exec .peRespond (cur 9) = .next ((cur 9).reply (1 :: hdr 0x0080 .ctrl 4))) ∧
    (exec (.rxPrSwap f) s = .next (cur 10) ∧ exec .peRespond (cur 10) = .next ((cur 10).reply (1 :: hdr 0x0080 .ctrl 4))) ∧
    (exec (.rxVconnSwap f) s = .next (cur 11) ∧ exec .peRespond (cur 11) = .next ((cur 11).reply (1 :: hdr 0x0080 .ctrl 4))) ∧
    (exec (.rxSoftReset f) s = .next (cur 13) ∧ exec .peRespond (cur 13) = .next ((cur 13).reply (1 :: hdr 0x0080 .ctrl 3))) ∧
    exec (.rxGetSinkCapExtended f) s = .next (cur 22) ∧
    (s.params.sinkCapExtBlock.length = 22 →
      exec .peRespond (cur 22) = .next ((cur 22).reply (1 :: (hdr 0xE080 .ext 15
        ++ le16 (BitVec.ofNat 16 (0x8000 + s.params.sinkCapExtSize.toNat)) ++ s.params.sinkCapExtBlock)))) ∧
    ∀ k ∈ [8, 9, 10, 11, 13, 22], ∀ h : Half, h.toNat % 2 ^ 5 = (typeCode s.params .ctrl k).toNat →
      h.toNat / 2 ^ 12 = 0 → exec (.peHandleMsg h []) s = .next (cur k)

/-- Source_Capabilities (41_codec_rx.md R174, R186): the list replaced whole, the selection what PE_EVALUATE answers on
the new list for the present target, the event, and a Request for that selection as the reply; by PE_HANDLE_MSG too. -/
def Obligations.SourceCapabilitiesRule : Prop :=
  ∀ (f : RxFields) (objs : List Obj) (s : State), s.params.codes.wf = true → 1 ≤ objs.length → objs.length ≤ 7 →
    let code := typeCode s.params .data 1
    (s.params.codes = defaultCodes → code = 1) ∧
    ∃ (stored : State) (q k : Byte) (t : State),
      stored.pe = { s.pe with
        curTable := .data
        curIndex := code
        pdoCount := stored.pe.pdoCount
        srcPdo := stored.pe.srcPdo } ∧
      stored.pe.pdoCount.toNat = objs.length ∧ stored.params = s.params ∧
      (∀ i < 7, stored.pe.srcPdo.get i = objs.getD i 0) ∧
      exec (.peEvaluate s.pe.ppsV s.pe.ppsI) stored = .next (stored.reply [q, k]) ∧
      t = State.reply { s with pe := { stored.pe with selected := t.pe.selected } } [0x01] ∧
      t.pe.selected.toNat = k.toNat ∧ k.toNat < objs.length ∧
      exec (.rxSourceCapabilities f objs) s = .next t ∧
      (∀ h : Half, h.toNat % 2 ^ 5 = code.toNat → h.toNat / 2 ^ 12 = objs.length →
        exec (.peHandleMsg h objs) s = .next t) ∧
      ∃ request, exec .peCreateRequest t = .next (t.reply request) ∧ exec .peRespond t = .next (t.reply (1 :: request))

/-! ## PE, transmitted messages -/

/-- The eight built messages and the three create commands (42_codec_tx.md R211 to R219; headers 30_encoding.md R99):
the header is the listed value, its low five bits the message's type code, plus MSG_ID * 512, building writes nothing but
the answer (R220), and the id field of the word plays no part (log 9). -/
def Obligations.BuiltMessages : Prop :=
  ∀ (id : BitVec 3) (s : State),
    let hdr (n : Nat) (t : Table) (k : BitVec 5) : List Byte :=
      le16 (BitVec.ofNat 16 (n + (typeCode s.params t k).toNat + s.pe.msgId.toNat * 2 ^ 9))
    (s.params.codes = defaultCodes → ∀ t k, typeCode s.params t k = k) ∧
    exec (.txAccept id) s = .next (s.reply (hdr 0x0080 .ctrl 3)) ∧
    exec (.txReject id) s = .next (s.reply (hdr 0x0080 .ctrl 4)) ∧
    exec (.txGetSourceCap id) s = .next (s.reply (hdr 0x0080 .ctrl 7)) ∧
    exec (.txNotSupported id) s = .next (s.reply (hdr 0x0080 .ctrl 16)) ∧
    exec (.txGetPpsStatus id) s = .next (s.reply (hdr 0x0080 .ctrl 20)) ∧
    exec (.txSinkCapabilities id) s = .next (s.reply (hdr 0x1080 .data 4 ++ [0x64, 0x90, 0x01, 0x00])) ∧
    (s.params.sinkCapExtBlock.length = 22 →
      exec (.txSinkCapabilitiesExtended id) s = .next (s.reply (hdr 0xE080 .ext 15
        ++ le16 (BitVec.ofNat 16 (0x8000 + s.params.sinkCapExtSize.toNat)) ++ s.params.sinkCapExtBlock))) ∧
    exec .peCreateGetSrcCap s = .next (s.reply (hdr 0x0080 .ctrl 7)) ∧
    exec .peCreateGetPpsStatus s = .next (s.reply (hdr 0x0080 .ctrl 20)) ∧
    ∃ rdo : Obj, exec (.txRequest id) s = .next (s.reply (hdr 0x1080 .data 2 ++ le32 rdo)) ∧
      exec .peCreateRequest s = .next (s.reply (hdr 0x1080 .data 2 ++ le32 rdo))

/-- The Request object (30_encoding.md R105, R106; 42_codec_tx.md R217): the object position, and the capability's low
ten bits twice, or, for an Augmented capability, the target's voltage and current. -/
def Obligations.RequestObjectRule : Prop :=
  ∀ s : State, s.pe.selected.toNat ≤ 6 → ∃ rdo : Obj,
    exec .peCreateRequest s
      = .next (s.reply (le16 (BitVec.ofNat 16
          (0x1080 + (typeCode s.params .data 2).toNat + s.pe.msgId.toNat * 2 ^ 9)) ++ le32 rdo)) ∧
    let w := (s.pe.srcPdo.get s.pe.selected.toNat).toNat
    (w / 2 ^ 30 ≠ 3 → rdo.toNat = (s.pe.selected.toNat + 1) * 2 ^ 28 + w % 2 ^ 10 * 2 ^ 10 + w % 2 ^ 10) ∧
    (w / 2 ^ 30 = 3 → rdo.toNat
      = (s.pe.selected.toNat + 1) * 2 ^ 28 + s.pe.ppsV.toNat % 2 ^ 11 * 2 ^ 9 + s.pe.ppsI.toNat % 2 ^ 7)

/-- "feeding a built message back into PE_HANDLE_MSG dispatches it to the entry of the same name" (42_codec_tx.md
R222): the bytes of each built message decode as that transmitted message with the present MSG_ID, and as the received
message of the same name with revision 2 and that id, under the machine's MSG_TYPE codes, whatever they are. -/
def Obligations.BuiltMessagesDispatchToTheirOwnNames : Prop :=
  ∀ (id : BitVec 3) (s : State), s.params.codes.wf = true →
    let f : RxFields := ⟨2, s.pe.msgId, 0, 0⟩
    ∀ p ∈ [(Instr.txAccept id, Instr.txAccept s.pe.msgId, fun _ => Instr.rxAccept f),
        (.txReject id, .txReject s.pe.msgId, fun _ => .rxReject f),
        (.txGetSourceCap id, .txGetSourceCap s.pe.msgId, fun _ => .rxGetSourceCap f),
        (.txNotSupported id, .txNotSupported s.pe.msgId, fun _ => .rxNotSupported f),
        (.txGetPpsStatus id, .txGetPpsStatus s.pe.msgId, fun _ => .rxGetPpsStatus f),
        (.txRequest id, .txRequest s.pe.msgId, .rxRequest f),
        (.txSinkCapabilities id, .txSinkCapabilities s.pe.msgId, .rxSinkCapabilities f),
        (.txSinkCapabilitiesExtended id, .txSinkCapabilitiesExtended s.pe.msgId, .rxSinkCapabilitiesExtended f)],
      ∃ t objs, exec p.1 s = .next t ∧ decodeAt s.params.codes .tx t.port.reply = .instr p.2.1 ∧
        decodeAt s.params.codes .rx t.port.reply = .instr (p.2.2 objs) ∧
        ∃ h, t.port.reply = le16 h ++ objsBytes objs ∧ objs.length = h.toNat / 2 ^ 12 % 8

/-- Which responder answers which received message (42_codec_tx.md R210, R221): for every current entry PE_RESPOND
answers the one byte 0, or 1 and the message that the entry's transmitted instruction builds; it changes nothing. The
entry is named by its row k of 30_encoding.md R95 to R97, whose type code CUR_INDEX is. That the answer false has no
message after it is the model's reading (log 15; R210 gives a boolean and a message). -/
def Obligations.RespondFollowsTheTable : Prop :=
  ∀ s : State, s.params.codes.wf = true → s.pe.currentLegal = true →
    ∃ row : BitVec 5, s.pe.curIndex = typeCode s.params s.pe.curTable row ∧
      (s.params.codes = defaultCodes → row = s.pe.curIndex) ∧
      let k := row.toNat
      let silent := s.pe.curTable = .none ∨ s.pe.curTable = .ctrl ∧ k ∈ [1, 3, 4, 6] ∨ s.pe.curTable = .data ∧ k = 3
        ∨ s.pe.curTable = .ext ∧ k = 12
      let answers (i : Instr) := ∃ bs, exec i s = .next (s.reply bs) ∧ exec .peRespond s = .next (s.reply (1 :: bs))
      (silent → exec .peRespond s = .next (s.reply [0])) ∧
      (s.pe.curTable = .ctrl → k = 8 → answers (.txSinkCapabilities 0)) ∧
      (s.pe.curTable = .ctrl → k = 22 → answers (.txSinkCapabilitiesExtended 0)) ∧
      (s.pe.curTable = .ctrl → k ∈ [9, 10, 11] → answers (.txReject 0)) ∧
      (s.pe.curTable = .ctrl → k = 13 → answers (.txAccept 0)) ∧
      (s.pe.curTable = .data → k = 1 → answers (.txRequest 0)) ∧
      (¬ silent → (s.pe.curTable = .ctrl → k ∉ [8, 9, 10, 11, 13, 22]) → (s.pe.curTable = .data → k ≠ 1) →
        answers (.txNotSupported 0))

/-! ## PE, negotiation -/

/-- The evaluator (43_negotiation.md R244, R254): in bounds; the lowest Augmented capability that brackets a target with
V ≠ 0; otherwise 0 or the highest other capability within the option's limit; nothing is written. The measure is R242's in
numbers, from the capability's word: maximum voltage div 4 and maximum current div 4, a factor 1 where the option does not
use it ("the spec's reading of "8-bit precision""); the limits are the parameters', by default the eight rows of R243
("derived by this spec from the tier names and the metric's units"). -/
def Obligations.EvaluatorProperties : Prop :=
  (State.reset.params.powerOptions = [⟨25, true, false⟩, ⟨45, true, false⟩, ⟨60, true, false⟩, ⟨75, true, false⟩,
    ⟨100, true, false⟩, ⟨100, true, false⟩, ⟨125, false, true⟩, ⟨12500, true, true⟩]) ∧
  ∀ (s : State) (v : Half) (i : Byte), ∃ (q : Bool) (n : Byte),
    exec (.peEvaluate v i) s = .next (s.reply [if q then 1 else 0, n]) ∧
    let w (k : Nat) : Nat := (s.pe.srcPdo.get k).toNat
    let live := s.pe.pdoCount.toNat
    let fits (k : Nat) : Prop := k < live ∧ w k / 2 ^ 30 = 3 ∧ 5 * (w k / 2 ^ 8 % 2 ^ 8) ≤ v.toNat ∧
      v.toNat ≤ 5 * (w k / 2 ^ 17 % 2 ^ 8) ∧ i.toNat ≤ w k % 2 ^ 7
    (live = 0 → n = 0) ∧ (live ≠ 0 → n.toNat < live) ∧
    (v ≠ 0 → (∃ k, fits k) → q = true) ∧
    (q = true → v ≠ 0 ∧ fits n.toNat ∧ ∀ k, fits k → n.toNat ≤ k) ∧
    ∀ row, s.params.powerOptions[s.pe.powerOption.toNat]? = some row →
      let maxV (k : Nat) : Nat := if w k / 2 ^ 30 = 0 then w k / 2 ^ 10 % 2 ^ 10 else w k / 2 ^ 20 % 2 ^ 10
      let maxI (k : Nat) : Nat := if w k / 2 ^ 30 = 1 then 0 else w k % 2 ^ 10
      let measure (k : Nat) : Nat := (if row.useV then maxV k / 4 else 1) * (if row.useI then maxI k / 4 else 1)
      let within (k : Nat) : Prop := k < live ∧ w k / 2 ^ 30 ≠ 3 ∧ measure k ≤ row.limit
      (q = false → (∃ k, within k) → within n.toNat ∧ ∀ k, within k → k ≤ n.toNat) ∧
      (q = false → (¬ ∃ k, within k) → n = 0)

/-- PE_GET_POWER_INFO (43_negotiation.md R249) and the four capability layouts (30_encoding.md R100 to R104), in the
capability's own units; ten zero bytes outside the live list. -/
def Obligations.PowerInfoRule : Prop :=
  ∀ (s : State) (k : Byte),
    let w := (s.pe.srcPdo.get k.toNat).toNat
    let answer (typ : Byte) (minV maxV maxI maxP : Nat) := exec (.peGetPowerInfo k) s = .next (s.reply
      ([1, typ] ++ le16 (BitVec.ofNat 16 minV) ++ le16 (BitVec.ofNat 16 maxV) ++ le16 (BitVec.ofNat 16 maxI)
        ++ le16 (BitVec.ofNat 16 maxP)))
    (s.pe.pdoCount.toNat ≤ k.toNat → exec (.peGetPowerInfo k) s = .next (s.reply [0, 0, 0, 0, 0, 0, 0, 0, 0, 0])) ∧
    (k.toNat < s.pe.pdoCount.toNat →
      (w / 2 ^ 30 = 0 → answer 0 0 (w / 2 ^ 10 % 2 ^ 10) (w % 2 ^ 10) 0) ∧
      (w / 2 ^ 30 = 1 → answer 1 (w / 2 ^ 10 % 2 ^ 10) (w / 2 ^ 20 % 2 ^ 10) 0 (w % 2 ^ 10)) ∧
      (w / 2 ^ 30 = 2 → answer 2 (w / 2 ^ 10 % 2 ^ 10) (w / 2 ^ 20 % 2 ^ 10) (w % 2 ^ 10) 0) ∧
      (w / 2 ^ 30 = 3 → answer 3 (w / 2 ^ 8 % 2 ^ 8) (w / 2 ^ 17 % 2 ^ 8) (w % 2 ^ 7) 0))

/-- PE_SET_POWER_OPTION and PE_SELECT_POWER (43_negotiation.md R246, R248, R241). The first makes the option the whole
target and stores what PE_EVALUATE 0 0 answers under it; the second stores the index without evaluating, and refuses one
outside the live list. Both answer true exactly when PE_CREATE_REQUEST answers differently after than before. -/
def Obligations.SetPowerOptionAndSelectPower : Prop :=
  ∀ (s : State) (o : Byte),
    (∃ (t : State) (q k : Byte) (before after : List Byte),
      let target := { s with pe := { s.pe with powerOption := BitVec.ofNat 3 (o.toNat % 8), ppsV := 0, ppsI := 0 } }
      exec (.peEvaluate 0 0) target = .next (target.reply [q, k]) ∧
      exec .peCreateRequest s = .next (s.reply before) ∧ exec .peCreateRequest t = .next (t.reply after) ∧
      exec (.peSetPowerOption o) s = .next t ∧
      t = State.reply { s with pe := { target.pe with selected := BitVec.ofNat 3 k.toNat } }
        [if before = after then 0 else 1]) ∧
    (s.pe.pdoCount.toNat ≤ o.toNat → exec (.peSelectPower o) s = .next (s.reply [0])) ∧
    (o.toNat < s.pe.pdoCount.toNat → ∃ (t : State) (before after : List Byte),
      exec .peCreateRequest s = .next (s.reply before) ∧ exec .peCreateRequest t = .next (t.reply after) ∧
      exec (.peSelectPower o) s = .next t ∧
      t = State.reply { s with pe := { s.pe with selected := BitVec.ofNat 3 o.toNat } }
        [if before = after then 0 else 1])

/-- PE_SET_PPS (43_negotiation.md R247, R241): strict and not qualified, nothing is written; otherwise the pair and the
evaluator's index are stored, and the answer is true exactly when PE_CREATE_REQUEST answers differently than before. -/
def Obligations.SetPpsRule : Prop :=
  ∀ (s : State) (v : Half) (i strict : Byte), ∃ (q k : Byte),
    exec (.peEvaluate v i) s = .next (s.reply [q, k]) ∧
    (strict ≠ 0 → q = 0 → exec (.peSetPps v i strict) s = .next (s.reply [0])) ∧
    (strict = 0 ∨ q ≠ 0 → ∃ (t : State) (before after : List Byte),
      exec .peCreateRequest s = .next (s.reply before) ∧ exec .peCreateRequest t = .next (t.reply after) ∧
      exec (.peSetPps v i strict) s = .next t ∧
      t = State.reply { s with pe := { s.pe with ppsV := v, ppsI := i, selected := BitVec.ofNat 3 k.toNat } }
        [if before = after then 0 else 1])

/-- "re-stating the present target is not" a change, "and with an empty PDO list nothing is ever a change"
(43_negotiation.md R241): each target operation answers 0 when it is repeated at once, and, in a state that meets the
invariants, 0 on an empty list. -/
def Obligations.RestatingTheTargetIsNoChange : Prop :=
  ∀ i : Instr, ((∃ o, i = .peSetPowerOption o) ∨ (∃ v c strict, i = .peSetPps v c strict) ∨ ∃ k, i = .peSelectPower k) →
    (∀ s t : State, exec i s = .next t → exec i t = .next (t.reply [0])) ∧
    (∀ s : State, s.inv = true → s.pe.pdoCount = 0 → ∃ t, exec i s = .next t ∧ t.port.reply = [0] ∧ t.pe.selected = 0)

/-- PE_RESET, PE_INIT and the PE accessors (43_negotiation.md R250 to R253, R257). -/
def Obligations.PeResetsAndAccessors : Prop :=
  ∀ s : State,
    exec .peReset s = .next (State.reply
      { s with pe := { s.pe with msgId := 0, curTable := .none, curIndex := 0 } } []) ∧
    exec .peInit s = .next (State.reply
      { s with pe := ⟨0, .none, 0, 0, ⟨0, 0, 0, 0, 0, 0, 0⟩, 0, 0, 0, 0, 0, 0, 0⟩ } []) ∧
    exec .peGetSelected s = .next (s.reply [BitVec.ofNat 8 s.pe.selected.toNat]) ∧
    exec .peGetPpsStatus s = .next (s.reply [BitVec.ofNat 8 s.pe.ppssV.toNat,
      BitVec.ofNat 8 (s.pe.ppssV.toNat / 2 ^ 8), s.pe.ppssI, s.pe.ppssFlags]) ∧
    exec .peGetTarget s = .next (s.reply [BitVec.ofNat 8 s.pe.powerOption.toNat, BitVec.ofNat 8 s.pe.ppsV.toNat,
      BitVec.ofNat 8 (s.pe.ppsV.toNat / 2 ^ 8), s.pe.ppsI])

/-! ## PL, the sequencer -/

/-- The getters (44_policy.md R296 to R300): a value computed from PL state, nothing changed. -/
def Obligations.ReadyGetters : Prop :=
  ∀ s : State,
    exec .isTrans s = .next (s.reply [if s.pl.reqPending = true ∨ s.pl.waitPsRdy = true then 1 else 0]) ∧
    exec .getMv s = .next (s.reply (le32 s.pl.readyMv)) ∧
    exec .getMa s = .next (s.reply (le32 s.pl.readyMa)) ∧
    exec .getMw s = .next (s.reply (le32 (BitVec.ofNat 32 (s.pl.readyMv.toNat * s.pl.readyMa.toNat / 1000)))) ∧
    exec .getReady s = .next (s.reply
      [match s.pl.readyStatus with | .notAvailable => 0 | .typical => 1 | .pps => 2])

/-- Before INIT has succeeded TICK answers NotInitialised and changes nothing; after it, with no deadline passed, nothing
to send and no poll due, TICK answers OK and changes nothing (44_policy.md R273). Whatever the state, phase A leaves one,
this one if nothing was due, and with no poll due after it that state, with phase A's status, is the TICK's. -/
def Obligations.TickGateAndIdleTick : Prop :=
  ∀ s : State,
    (s.pl.ready = false → exec .tick s = .next (s.reply [5])) ∧
    (s.pl.ready = true → s.quiet = true → s.pollDue = false → exec .tick s = .next (s.reply [0])) ∧
    (s.quiet = true → s.phaseA s 0) ∧ (∃ r st, s.phaseA r st) ∧
    (∀ r st, s.pl.ready = true → s.phaseA r st → r.pollDue = false → exec .tick s = .next (r.reply [st]))

/-- INIT (44_policy.md R271): with FR_INIT's five primitives answered, PE zeroed, the target stored in 20 mV and 50 mA
(a current cut to 8 bits), staged under 5 V (R302), PL started; where FR_INIT does not answer OK its status is INIT's,
with PE and PL zeroed. -/
def Obligations.InitRule : Prop :=
  ∀ (s : State) (option : Byte) (mv ma : Half),
    ((∀ k < 5, s.succeeds k = true) → idRecognised s.params (s.env.answerAt 1).byte = true →
      let v := if mv = 0 then 0 else mv.toNat / 20
      let i := if mv = 0 then 0 else ma.toNat / 50 % 2 ^ 8
      let staged := v ≠ 0 ∧ v < 250
      ∃ u t : State, exec .frInit s = .next u ∧ u.port.reply = [0] ∧
        t.pe = { Pe.reset with
          powerOption := BitVec.ofNat 3 (option.toNat % 8)
          ppsV := BitVec.ofNat 16 (if staged then 250 else v)
          ppsI := BitVec.ofNat 8 i } ∧
        t.pl = { Pl.reset with
          ready := true
          tPoll := u.env.now
          ppsVNext := BitVec.ofNat 16 (if staged then v else 0)
          ppsINext := BitVec.ofNat 8 (if staged then i else 0) } ∧
        exec (.init option mv ma) s = .next (State.reply { u with pe := t.pe, pl := t.pl } [0])) ∧
    (∀ (u : State) (c : Byte), exec .frInit s = .next u → u.port.reply = [c] → c ≠ 0 →
      exec (.init option mv ma) s
        = .next { u with pe := Pe.reset, pl := { Pl.reset with tPoll := s.pl.tPoll } })

/-- SRC_CAP_TIMEOUT (44_policy.md R280, R281): the first three times the timer is restarted and the retry counted before
Get_Source_Cap is written, so a failed write is a spent retry too; the fourth time a hard reset, PE reset, the retries
from 0 again, NotAvailable, and WAIT_SRC_CAP kept with a fresh timer, all that where the hard reset fails as well. "A
non-OK sub-step does not stop the TICK; the later sub-steps still run" (R273; 60_exceptions.md R326): what follows is
what a TICK from the state so left does, and its status counts if the timeout's own is OK. Where a host's FR_INIT has
failed since INIT (40_framer.md R130, R131), the send answers NotInitialised and no primitive is issued; the rest is the
same (that the clock then has not moved is the model's choice, log 3). -/
def Obligations.SourceCapTimeout : Prop :=
  ∀ s : State, s.pl.ready = true → s.capDue = true →
    let goesOn (t : State) (st : Byte) : Prop :=
      (t.psRdyDue = false → t.sendDue = false →
        s.phaseA t st ∧ (t.pollDue = false → exec .tick s = .next (t.reply [st]))) ∧
      (t.capDue = false → ∃ (w : State) (rest : Byte), exec .tick t = .next w ∧ w.port.reply = [rest] ∧
        exec .tick s = .next (w.reply [if st = 0 then rest else st]))
    (s.pl.srcCapRetry.toNat < 3 →
      let h : Half := BitVec.ofNat 16 (0x0080 + (typeCode s.params .ctrl 7).toNat + s.pe.msgId.toNat * 2 ^ 9)
      let t (calls : List XCall) : State :=
        let sent := s.after calls
        { sent with
          pl := { s.pl with tSrcCap := s.env.now, srcCapRetry := BitVec.ofNat 2 (s.pl.srcCapRetry.toNat + 1) }
          env := { sent.env with log := s.env.log ++ [⟨sent.env.now, .transmit, some h, []⟩] } }
      (s.fr.ready = true → s.succeeds 0 = true → goesOn (t [.txWrite (txBytes s.params h [])]) 0) ∧
      (s.fr.ready = true → s.succeeds 0 = false → goesOn (t [.txWrite (txBytes s.params h [])]) 3) ∧
      (s.fr.ready = false → goesOn (t []) 5)) ∧
    (s.pl.srcCapRetry = 3 →
      let first : List XCall := [.sendHardReset]
      let all : List XCall := [.sendHardReset, .delayMs s.params.tHardResetSettleMs, .pdReset]
      let t (calls : List XCall) : State :=
        let sent := s.after calls
        { sent with
          pe := { s.pe with msgId := 0, curTable := .none, curIndex := 0 }
          pl := { s.pl with
            tSrcCap := s.env.now
            srcCapRetry := 0
            readyStatus := .notAvailable
            readyMv := 0
            readyMa := 0 }
          env := { sent.env with log := s.env.log ++ [⟨sent.env.now, .transmit, none, []⟩] } }
      (s.fr.ready = true → s.succeeds 0 = true → s.succeeds 1 = true → goesOn (t all) 0) ∧
      (∀ e, s.fr.ready = true → (s.env.answerAt 0).fail = some e → goesOn (t first) (errorByte e)) ∧
      (∀ e, s.fr.ready = true → s.succeeds 0 = true → (s.env.answerAt 1).fail = some e →
        goesOn (t all) (errorByte e)) ∧
      (s.fr.ready = false → goesOn (t []) 5))

/-- PS_RDY_TIMEOUT (44_policy.md R289, R284): default power with VBUS sensing on, REQ_PENDING, the second-stage target
and the selection left, TICK's status unaffected. A pending Request is not sent by the same TICK; the poll, if it is due,
is still made, and its status is TICK's (R273): one with no event here, one with events in the statements that follow,
which hold of whatever phase A has left. That the clock does not move over the timeout itself is the model's choice
(log 3). -/
def Obligations.PsRdyTimeoutFallsBack : Prop :=
  ∀ s : State, s.pl.ready = true → s.capDue = false → s.psRdyDue = true →
    let t : State := { s with
      fr := { s.fr with vbusSenseEn := s.fr.ready || s.fr.vbusSenseEn }
      pl := { s.pl with waitPsRdy := false, readyStatus := .typical, readyMv := 5000, readyMa := 1000 }
      env := { s.env with log := s.env.log ++ [⟨s.env.now, .powerReady, none, []⟩] } }
    s.phaseA t 0 ∧
    (s.pollDue = false → exec .tick s = .next (t.reply [0])) ∧
    (t.sendDue = false → exec .tick s = exec .tick t) ∧
    (∀ (u : State) (e : Byte), s.pollDue = true → t.settlesAt u → u.port.reply = [e, 0] →
      exec .tick s = .next (State.reply { u with pl := { t.pl with tPoll := s.env.now } } [e]))

/-- SEND_REQUEST (44_policy.md R286) and the keep-alive (R292): the message PE_CREATE_REQUEST builds is written; the
flags and both timestamps change only if that succeeded. "A non-OK sub-step does not stop the TICK; the later sub-steps
still run" (R273; 60_exceptions.md R326): after a failed write a poll that is due is still made, and WriteError stays
TICK's status whatever the poll's is (one with no event here, one with events in the statements that follow, which hold of
whatever phase A has left); after a written one the rest is what a TICK from the state so left does. Where a host's FR_INIT
has failed since INIT (40_framer.md R130, R131), the send answers NotInitialised and no primitive is issued (that the clock
then has not moved is the model's choice, log 3). -/
def Obligations.DueRequestIsSent : Prop :=
  ∀ s : State, s.pl.ready = true → s.capDue = false → s.sendDue = true →
    ∃ (h : Half) (rdo : Obj), exec .peCreateRequest s = .next (s.reply (le16 h ++ le32 rdo)) ∧
      let sent := s.after (if s.fr.ready then [.txWrite (txBytes s.params h [rdo])] else [])
      let failed : State :=
        { s with env := { sent.env with log := s.env.log ++ [⟨sent.env.now, .transmit, some h, [rdo]⟩] } }
      let done : State := { failed with
        pl := { s.pl with reqPending := false, waitPsRdy := true, tPsRdy := sent.env.now, tPpsReq := sent.env.now } }
      (s.fr.ready = true → s.succeeds 0 = true →
        s.phaseA done 0 ∧
        (done.pollDue = false → exec .tick s = .next (done.reply [0])) ∧
        (done.capDue = false → exec .tick s = exec .tick done)) ∧
      (∀ st : Byte, (s.fr.ready = true ∧ s.succeeds 0 = false ∧ st = 3 ∨ s.fr.ready = false ∧ st = 5) →
        s.phaseA failed st ∧
        (failed.pollDue = false → exec .tick s = .next (failed.reply [st])) ∧
        (∀ (u : State) (e : Byte), failed.pollDue = true → failed.settlesAt u → u.port.reply = [e, 0] →
          exec .tick s = .next (State.reply { u with pl := { s.pl with tPoll := failed.env.now } } [st])))

/-! What phase B does, from the state s that phase A of a TICK from s0 has left with status st (`State.phaseA`): s0 itself
with status 0 where nothing was due, else what the three statements above say. "A non-OK sub-step does not stop the TICK;
the later sub-steps still run" (44_policy.md R273; 60_exceptions.md R326). -/

/-- ON_ATTACHED (44_policy.md R277, R278): when the poll of a TICK, the one it settles on if the first is Busy, reports
Attached, PE is reset and the waits cleared; with exactly one pin above the USB default tier and the other open the block
waits for Source_Capabilities, a PPS target under 5 V staged (R302); otherwise it goes straight to default power. Phase A has left s, with status st (R273). -/
def Obligations.TickAttach : Prop :=
  ∀ (s0 s u : State) (st : Byte), s0.pl.ready = true → s0.phaseA s st → s.pollDue = true →
    s.settlesAt u → u.port.reply = [0, 1] →
    let pe := { s.pe with msgId := 0, curTable := .none, curIndex := 0 }
    let pl := { s.pl with
      tPoll := s.env.now
      waitSrcCap := false
      waitPsRdy := false
      reqPending := false
      srcCapRetry := 0 }
    let high (l : LineLevel) : Prop := l = .rd1A5 ∨ l = .rd3A0
    let qualified := high u.fr.cc1 ∧ u.fr.cc2 = .opn ∨ high u.fr.cc2 ∧ u.fr.cc1 = .opn
    let staged := s.pl.ppsVNext = 0 ∧ s.pe.ppsV.toNat ≠ 0 ∧ s.pe.ppsV.toNat < 250
    let attached := { u.env with log := s.env.log ++ [⟨u.env.now, .attach, none, []⟩] }
    let waiting := { pl with
      readyStatus := .notAvailable
      readyMv := 0
      readyMa := 0
      waitSrcCap := true
      tSrcCap := u.env.now }
    (qualified → ¬ staged → exec .tick s0 = .next (State.reply { u with pe := pe, pl := waiting, env := attached } [st])) ∧
    (qualified → staged → ∃ w, exec (.peSetPps 250 s.pe.ppsI 0) { s with pe := pe } = .next w ∧
      exec .tick s0 = .next (State.reply { u with
        pe := w.pe
        pl := { waiting with ppsVNext := s.pe.ppsV, ppsINext := s.pe.ppsI }
        env := attached } [st])) ∧
    (¬ qualified → exec .tick s0 = .next (State.reply { u with
      fr := { u.fr with vbusSenseEn := true }
      pe := pe
      pl := { pl with readyStatus := .typical, readyMv := 5000, readyMa := 1000 }
      env := { u.env with log := s.env.log
        ++ [LogEntry.mk u.env.now .attach none [], LogEntry.mk u.env.now .powerReady none []] } } [st]))

/-- ON_DETACHED (44_policy.md R279): PE reset, waits, counter and ready status cleared, PPS_V_NEXT kept. Phase A
has left s, with status st (R273). -/
def Obligations.TickDetach : Prop :=
  ∀ (s0 s u : State) (st : Byte), s0.pl.ready = true → s0.phaseA s st → s.pollDue = true →
    s.settlesAt u → u.port.reply = [0, 2] →
    exec .tick s0 = .next (State.reply { u with
      pe := { s.pe with msgId := 0, curTable := .none, curIndex := 0 }
      pl := { s.pl with
        tPoll := s.env.now
        waitSrcCap := false
        waitPsRdy := false
        reqPending := false
        srcCapRetry := 0
        readyStatus := .notAvailable
        readyMv := 0
        readyMa := 0 }
      env := { u.env with log := s.env.log ++ [⟨u.env.now, .detach, none, []⟩] } } [st])

/-- Source_Capabilities in a TICK (44_policy.md R282, R283, R285): the frame is handed to PE_HANDLE_MSG, PL waits for
PS_RDY with a Request pending (the type code is 1 by default); and if GoodCrcSent came in the same poll, the Request goes
out after the guard delay, and if that succeeds none is pending any more. Phase A has left s, with status st, which stays
TICK's if it is not OK (R273). -/
def Obligations.TickSourceCapabilities : Prop :=
  ∀ (s0 s u : State) (st : Byte), s0.pl.ready = true → s0.phaseA s st → s.pollDue = true → s.settlesAt u →
    let h := u.fr.rxHdr
    s.params.codes.wf = true → h.toNat / 2 ^ 15 = 0 → h.toNat / 2 ^ 12 % 8 ≠ 0 →
    h.toNat % 2 ^ 5 = (typeCode s.params .data 1).toNat →
    ∃ (w : State) (hq : Half) (rdo : Obj), exec (.peHandleMsg h u.fr.rxObj.toList) u = .next w ∧
      exec .peCreateRequest w = .next (w.reply (le16 hq ++ le32 rdo)) ∧
      let pl := { s.pl with
        tPoll := s.env.now
        waitSrcCap := false
        srcCapRetry := 0
        waitPsRdy := true
        tPsRdy := u.env.now
        reqPending := true }
      let log := s.env.log
        ++ [⟨u.env.now, .receive, some h, u.fr.rxObj.toList⟩, ⟨u.env.now, .capReceived, none, []⟩]
      let sent := u.after [.delayMs s.params.tGuardMs, .txWrite (txBytes s.params hq [rdo])]
      let logged := { sent.env with log := log ++ [⟨sent.env.now, .transmit, some hq, [rdo]⟩] }
      (u.port.reply = [0, 4] →
        exec .tick s0 = .next (State.reply { u with pe := w.pe, pl := pl, env := { u.env with log := log } } [st])) ∧
      (u.port.reply = [0, 12] → u.succeeds 0 = true →
        exec .tick s0 = .next (State.reply { u with
          pe := w.pe
          pl := { pl with reqPending := false, tPpsReq := sent.env.now }
          env := logged } [st])) ∧
      (u.port.reply = [0, 12] → u.succeeds 0 = false →
        exec .tick s0 = .next (State.reply { u with pe := w.pe, pl := pl, env := logged } [if st = 0 then 3 else st]))

/-- PS_RDY in a TICK, and Reject under REJECT_POLICY = AsPsRdy, the default, which has the same effect but for its log
tuple (44_policy.md R288, R284, R282, R290, R304): ignored unless a PS_RDY is awaited; then default power if the selection
is not live, PPS at the target with VBUS sensing off and, if a second stage waits, its target set and a Request pending
(R302), or Typical at the capability's voltage and current with VBUS sensing on. A GoodCrcSent of the same poll finds no
reply and only the guard delay passes (R283); that the clock then has moved by exactly T_GUARD_MS is the model's choice
(log 3: the spec says at least that long). Phase A has left s, with status st (R273). -/
def Obligations.TickPsRdy : Prop :=
  ∀ (s0 s u : State) (st : Byte), s0.pl.ready = true → s0.phaseA s st → s.pollDue = true →
    s.params.codes.wf = true → s.settlesAt u →
    ∀ (k : BitVec 5) (rejected : List LogEntry), (k = 6 ∧ rejected = [] ∨
      k = 4 ∧ s.params.rejectPolicy = .asPsRdy ∧ rejected = [⟨u.env.now, .reject, none, []⟩]) →
    u.fr.rxHdr.toNat / 2 ^ 12 = 0 → u.fr.rxHdr.toNat % 2 ^ 5 = (typeCode s.params .ctrl k).toNat →
    ∀ guard : List XCall, (u.port.reply = [0, 4] ∧ guard = [] ∨
      u.port.reply = [0, 12] ∧ guard = [.delayMs s.params.tGuardMs]) →
    let pe := { s.pe with curTable := .ctrl, curIndex := typeCode s.params .ctrl k }
    let pl := { s.pl with tPoll := s.env.now }
    let received : List LogEntry := s.env.log
      ++ (⟨u.env.now, .receive, some u.fr.rxHdr, u.fr.rxObj.toList⟩ :: rejected)
    let env (log : List LogEntry) := { (u.after guard).env with log := log }
    let logged := env (received ++ [⟨u.env.now, .powerReady, none, []⟩])
    let done := { pl with waitPsRdy := false }
    let w := (s.pe.srcPdo.get s.pe.selected.toNat).toNat
    let live := s.pe.selected.toNat < s.pe.pdoCount.toNat
    let pps := { done with
      readyStatus := .pps
      readyMv := BitVec.ofNat 32 (s.pe.ppsV.toNat * 20)
      readyMa := BitVec.ofNat 32 (s.pe.ppsI.toNat * 50) }
    let typical (mv ma : Nat) : State := { u with
      fr := { u.fr with vbusSenseEn := true }
      pe := pe
      pl := { done with readyStatus := .typical, readyMv := BitVec.ofNat 32 mv, readyMa := BitVec.ofNat 32 ma }
      env := logged }
    (s.pl.waitPsRdy = false →
      exec .tick s0 = .next (State.reply { u with pe := pe, pl := pl, env := env received } [st])) ∧
    (s.pl.waitPsRdy = true → ¬ live → exec .tick s0 = .next ((typical 5000 1000).reply [st])) ∧
    (s.pl.waitPsRdy = true → live → w / 2 ^ 30 = 0 →
      exec .tick s0 = .next ((typical (w / 2 ^ 10 % 2 ^ 10 * 50) (w % 2 ^ 10 * 10)).reply [st])) ∧
    (s.pl.waitPsRdy = true → live → w / 2 ^ 30 = 1 →
      exec .tick s0 = .next ((typical (w / 2 ^ 20 % 2 ^ 10 * 50) 0).reply [st])) ∧
    (s.pl.waitPsRdy = true → live → w / 2 ^ 30 = 2 →
      exec .tick s0 = .next ((typical (w / 2 ^ 20 % 2 ^ 10 * 50) (w % 2 ^ 10 * 10)).reply [st])) ∧
    (s.pl.waitPsRdy = true → live → w / 2 ^ 30 = 3 → s.pl.ppsVNext = 0 →
      exec .tick s0 = .next (State.reply { u with
        fr := { u.fr with vbusSenseEn := false }
        pe := pe
        pl := pps
        env := logged } [st])) ∧
    (s.pl.waitPsRdy = true → live → w / 2 ^ 30 = 3 → s.pl.ppsVNext ≠ 0 →
      ∃ v, exec (.peSetPps s.pl.ppsVNext s.pl.ppsINext 0) { s with pe := pe } = .next v ∧
        exec .tick s0 = .next (State.reply { u with
          fr := { u.fr with vbusSenseEn := false }
          pe := v.pe
          pl := { pps with ppsVNext := 0, ppsINext := 0, reqPending := true }
          env := logged } [st]))

/-- Reject in a TICK under REJECT_POLICY = Distinct (44_policy.md R290, R282): awaited, it ends in default power with
the second-stage target dropped; not awaited, it is only logged. A GoodCrcSent of the same poll (R276) finds no reply and
only the guard delay passes (R283); that the clock then has moved by exactly T_GUARD_MS is the model's choice (log 3: the
spec says at least that long). Phase A has left s, with status st (R273). -/
def Obligations.TickDistinctReject : Prop :=
  ∀ (s0 s u : State) (st : Byte), s0.pl.ready = true → s0.phaseA s st → s.pollDue = true →
    s.params.codes.wf = true → s.settlesAt u →
    s.params.rejectPolicy = .distinct → u.fr.rxHdr.toNat / 2 ^ 12 = 0 →
    u.fr.rxHdr.toNat % 2 ^ 5 = (typeCode s.params .ctrl 4).toNat →
    ∀ guard : List XCall, (u.port.reply = [0, 4] ∧ guard = [] ∨
      u.port.reply = [0, 12] ∧ guard = [.delayMs s.params.tGuardMs]) →
    let pe := { s.pe with curTable := .ctrl, curIndex := typeCode s.params .ctrl 4 }
    let pl := { s.pl with tPoll := s.env.now }
    let received : List LogEntry := s.env.log
      ++ [⟨u.env.now, .receive, some u.fr.rxHdr, u.fr.rxObj.toList⟩, ⟨u.env.now, .reject, none, []⟩]
    let env (log : List LogEntry) := { (u.after guard).env with log := log }
    (s.pl.waitPsRdy = false →
      exec .tick s0 = .next (State.reply { u with pe := pe, pl := pl, env := env received } [st])) ∧
    (s.pl.waitPsRdy = true → exec .tick s0 = .next (State.reply { u with
      fr := { u.fr with vbusSenseEn := true }
      pe := pe
      pl := { pl with
        waitPsRdy := false
        readyStatus := .typical
        readyMv := 5000
        readyMa := 1000
        ppsVNext := 0
        ppsINext := 0 }
      env := env (received ++ [⟨u.env.now, .powerReady, none, []⟩]) } [st]))

/-- Every other received frame, and the queued reply. A frame that is no Source_Capabilities, PS_RDY or Reject is logged
and handed to PE_HANDLE_MSG and PL does nothing more with it (44_policy.md R282; Accept R287, PPS_Status R291). When a poll
reports GoodCrcSent, alone or with such a frame, the reply PE_RESPOND builds for the message then current is written
after the guard delay, if there is one; a written Request clears REQ_PENDING and restarts the keep-alive clock (R283).
Where there is none, that PE_RESPOND answers the one byte 0 is log 15's reading of 42_codec_tx.md R210, and that the
clock has moved by exactly T_GUARD_MS is the model's choice (log 3: the spec says at least that long). Phase A
has left s, with status st, which stays TICK's if it is not OK (R273). -/
def Obligations.TickFlushesTheQueuedReply : Prop :=
  ∀ (s0 s u : State) (st : Byte), s0.pl.ready = true → s0.phaseA s st → s.pollDue = true → s.settlesAt u →
    let pl := { s.pl with tPoll := s.env.now }
    let code (t : Table) (k : BitVec 5) : Nat := (typeCode s.params t k).toNat
    let typ := u.fr.rxHdr.toNat % 2 ^ 5
    let plain := ¬ (1 ≤ u.fr.rxHdr.toNat / 2 ^ 12 ∧ u.fr.rxHdr.toNat / 2 ^ 12 ≤ 7 ∧ typ = code .data 1) ∧
      ¬ (u.fr.rxHdr.toNat / 2 ^ 12 = 0 ∧ (typ = code .ctrl 4 ∨ typ = code .ctrl 6))
    ∃ w, exec (.peHandleMsg u.fr.rxHdr u.fr.rxObj.toList) u = .next w ∧
      let received : State := { u with
        pe := w.pe
        pl := pl
        env := { u.env with log := s.env.log ++ [⟨u.env.now, .receive, some u.fr.rxHdr, u.fr.rxObj.toList⟩] } }
      (s.params.codes.wf = true → u.port.reply = [0, 4] → plain → exec .tick s0 = .next (received.reply [st])) ∧
      ∀ v : State, (u.port.reply = [0, 8] ∧ v = { u with pl := pl } ∨
        s.params.codes.wf = true ∧ u.port.reply = [0, 12] ∧ plain ∧ v = received) →
        let waited := v.after [.delayMs s.params.tGuardMs]
        (exec .peRespond v = .next (v.reply [0]) ∧ exec .tick s0 = .next (waited.reply [st])) ∨
        ∃ (h : Half) (objs : List Obj), objs.length = h.toNat / 2 ^ 12 % 8 ∧
          exec .peRespond v = .next (v.reply (1 :: (le16 h ++ objsBytes objs))) ∧
          let sent := waited.after [.txWrite (txBytes s.params h objs)]
          let t : State :=
            { v with env := { sent.env with log := v.env.log ++ [⟨sent.env.now, .transmit, some h, objs⟩] } }
          let request := h.toNat / 2 ^ 12 = 1 ∧ h.toNat % 2 ^ 5 = code .data 2
          (v.succeeds 0 = true → ¬ request → exec .tick s0 = .next (t.reply [st])) ∧
          (v.succeeds 0 = true → request → exec .tick s0 = .next (State.reply { t with
            pl := { pl with reqPending := false, tPpsReq := sent.env.now } } [st])) ∧
          (v.succeeds 0 = false → exec .tick s0 = .next (t.reply [if st = 0 then 3 else st]))

/-- A poll with no event (44_policy.md R275): OK with nothing seen leaves T_POLL alone written and the status OK; an error
is TICK's status and no event is handled. Busy is polled again: the poll the TICK settles on counts, and with the default
N_POLL_TRIES three Busy answers are TICK's Busy. Phase A has left s, with status st, which stays TICK's if it is not OK
(R273; 60_exceptions.md R326). -/
def Obligations.TickReportsAFailedPoll : Prop :=
  ∀ (s0 s u : State) (st : Byte), s0.pl.ready = true → s0.phaseA s st → s.pollDue = true →
    let polled (v : State) (e : Byte) : Prop :=
      exec .tick s0 = .next (State.reply { v with pl := { s.pl with tPoll := s.env.now } } [if st = 0 then e else st])
    (∀ e : Byte, s.settlesAt u → u.port.reply = [e, 0] → polled u e) ∧
    (exec .frPoll s = .next u →
      (∀ e : Byte, e ≠ 1 → u.port.reply = [e, 0] → polled u e) ∧
      (∀ u2 : State, u.port.reply = [1, 0] → exec .frPoll u = .next u2 →
        (∀ e : Byte, s.params.nPollTries ≥ 2 → e ≠ 1 → u2.port.reply = [e, 0] → polled u2 e) ∧
        (∀ (u3 : State) (e : Byte), s.params.nPollTries = 3 → u2.port.reply = [1, 0] → exec .frPoll u2 = .next u3 →
          u3.port.reply = [e, 0] → polled u3 e)))

/-- REQ_PPS and REQ_OPT (44_policy.md R294, R295, R293). REQ_PPS: to_pps rounds down; a current above 255 units or a
target that PE_EVALUATE does not qualify is answered (OK, false) and changes nothing; otherwise it is PE_SET_PPS in
strict mode. REQ_OPT is PE_SET_POWER_OPTION. Both drop the second-stage target and mark a Request pending if the
selection changed, and leave waits, counter and timestamps. Before INIT both answer NotInitialised. -/
def Obligations.ReconfigurationCommands : Prop :=
  ∀ s : State,
    let pl (c : Byte) := { s.pl with ppsVNext := 0, ppsINext := 0, reqPending := s.pl.reqPending || (c != 0) }
    (∀ mv ma : Half, s.pl.ready = true →
      let v : Half := BitVec.ofNat 16 (mv.toNat / 20)
      let i : Byte := BitVec.ofNat 8 (ma.toNat / 50)
      (255 < ma.toNat / 50 → exec (.reqPps mv ma) s = .next (s.reply [0, 0])) ∧
      (ma.toNat / 50 ≤ 255 → ∃ (q k c : Byte) (w : State),
        exec (.peEvaluate v i) s = .next (s.reply [q, k]) ∧
        exec (.peSetPps v i 1) s = .next w ∧ w.port.reply = [c] ∧
        (q = 0 → exec (.reqPps mv ma) s = .next (s.reply [0, 0])) ∧
        (q ≠ 0 → exec (.reqPps mv ma) s = .next (State.reply { s with pe := w.pe, pl := pl c } [0, 1])))) ∧
    (∀ o : Byte, s.pl.ready = true → ∃ (c : Byte) (w : State),
      exec (.peSetPowerOption o) s = .next w ∧ w.port.reply = [c] ∧
      exec (.reqOpt o) s = .next (State.reply { s with pe := w.pe, pl := pl c } [0])) ∧
    (s.pl.ready = false → (∀ mv ma, exec (.reqPps mv ma) s = .next (s.reply [5, 0])) ∧
      ∀ o, exec (.reqOpt o) s = .next (s.reply [5]))
end

