-- ==== Sys2Proof/Laws/State.lean ====
section
/-! SUPPORT. One lemma per field per update: what each small update of the state leaves in each field. True by
computation, so that no later proof unfolds a record update. -/

namespace Sys2Proof.Machine

open Sys2Proof.Config

@[simp] theorem State.reply_fr (s : State) (bs : List Byte) : (s.reply bs).fr = s.fr := rfl
@[simp] theorem State.reply_pe (s : State) (bs : List Byte) : (s.reply bs).pe = s.pe := rfl
@[simp] theorem State.reply_pl (s : State) (bs : List Byte) : (s.reply bs).pl = s.pl := rfl
@[simp] theorem State.reply_env (s : State) (bs : List Byte) : (s.reply bs).env = s.env := rfl
@[simp] theorem State.reply_port (s : State) (bs : List Byte) : (s.reply bs).port = ⟨s.port.inbox, bs⟩ := rfl
@[simp] theorem State.reply_params (s : State) (bs : List Byte) : (s.reply bs).params = s.params := rfl
@[simp] theorem State.replySt_fr (s : State) (st : Status) : (s.replySt st).fr = s.fr := rfl
@[simp] theorem State.replySt_pe (s : State) (st : Status) : (s.replySt st).pe = s.pe := rfl
@[simp] theorem State.replySt_pl (s : State) (st : Status) : (s.replySt st).pl = s.pl := rfl
@[simp] theorem State.replySt_env (s : State) (st : Status) : (s.replySt st).env = s.env := rfl
@[simp] theorem State.replySt_port (s : State) (st : Status) : (s.replySt st).port = ⟨s.port.inbox, [st.code]⟩ := rfl
@[simp] theorem State.replySt_params (s : State) (st : Status) : (s.replySt st).params = s.params := rfl

@[simp] theorem State.log_fr (s : State) (k : LogKind) (h : Option Half) (os : List Obj) : (s.log k h os).fr = s.fr := rfl
@[simp] theorem State.log_pe (s : State) (k : LogKind) (h : Option Half) (os : List Obj) : (s.log k h os).pe = s.pe := rfl
@[simp] theorem State.log_pl (s : State) (k : LogKind) (h : Option Half) (os : List Obj) : (s.log k h os).pl = s.pl := rfl
@[simp] theorem State.log_port (s : State) (k : LogKind) (h : Option Half) (os : List Obj) : (s.log k h os).port = s.port := rfl
@[simp] theorem State.log_params (s : State) (k : LogKind) (h : Option Half) (os : List Obj) : (s.log k h os).params = s.params := rfl
@[simp] theorem State.log_env_now (s : State) (k : LogKind) (h : Option Half) (os : List Obj) : (s.log k h os).env.now = s.env.now := rfl
@[simp] theorem State.log_env_alert (s : State) (k : LogKind) (h : Option Half) (os : List Obj) : (s.log k h os).env.alert = s.env.alert := rfl
@[simp] theorem State.log_env_answers (s : State) (k : LogKind) (h : Option Half) (os : List Obj) : (s.log k h os).env.answers = s.env.answers := rfl
@[simp] theorem State.log_env_oracle (s : State) (k : LogKind) (h : Option Half) (os : List Obj) : (s.log k h os).env.oracle = s.env.oracle := rfl
@[simp] theorem State.log_env_calls (s : State) (k : LogKind) (h : Option Half) (os : List Obj) : (s.log k h os).env.calls = s.env.calls := rfl
@[simp] theorem State.log_env_log (s : State) (k : LogKind) (h : Option Half) (os : List Obj) : (s.log k h os).env.log = s.env.log ++ [⟨s.env.now, k, h, os⟩] := rfl

@[simp] theorem State.delay_fr (s : State) (n : Nat) : (s.delay n).fr = s.fr := rfl
@[simp] theorem State.delay_pe (s : State) (n : Nat) : (s.delay n).pe = s.pe := rfl
@[simp] theorem State.delay_pl (s : State) (n : Nat) : (s.delay n).pl = s.pl := rfl
@[simp] theorem State.delay_port (s : State) (n : Nat) : (s.delay n).port = s.port := rfl
@[simp] theorem State.delay_params (s : State) (n : Nat) : (s.delay n).params = s.params := rfl
@[simp] theorem State.delay_env_now (s : State) (n : Nat) : (s.delay n).env.now = s.env.now + BitVec.ofNat 16 n := rfl
@[simp] theorem State.delay_env_alert (s : State) (n : Nat) : (s.delay n).env.alert = s.env.alert := rfl
@[simp] theorem State.delay_env_answers (s : State) (n : Nat) : (s.delay n).env.answers = s.env.answers := rfl
@[simp] theorem State.delay_env_oracle (s : State) (n : Nat) : (s.delay n).env.oracle = s.env.oracle := rfl
@[simp] theorem State.delay_env_calls (s : State) (n : Nat) : (s.delay n).env.calls = s.env.calls ++ [⟨.delayMs n, none⟩] := rfl
@[simp] theorem State.delay_env_log (s : State) (n : Nat) : (s.delay n).env.log = s.env.log := rfl

@[simp] theorem State.issue_snd_fr (s : State) (c : XCall) : (s.issue c).2.fr = s.fr := rfl
@[simp] theorem State.issue_snd_pe (s : State) (c : XCall) : (s.issue c).2.pe = s.pe := rfl
@[simp] theorem State.issue_snd_pl (s : State) (c : XCall) : (s.issue c).2.pl = s.pl := rfl
@[simp] theorem State.issue_snd_port (s : State) (c : XCall) : (s.issue c).2.port = s.port := rfl
@[simp] theorem State.issue_snd_params (s : State) (c : XCall) : (s.issue c).2.params = s.params := rfl
@[simp] theorem State.issue_snd_env_alert (s : State) (c : XCall) : (s.issue c).2.env.alert = s.env.alert := rfl
@[simp] theorem State.issue_snd_env_log (s : State) (c : XCall) : (s.issue c).2.env.log = s.env.log := rfl
@[simp] theorem State.issue_snd_env_oracle (s : State) (c : XCall) : (s.issue c).2.env.oracle = s.env.oracle + 1 := rfl
@[simp] theorem State.accept_fr (s : State) (x : Stimulus) (rest : List Stimulus) : (s.accept x rest).fr = s.fr := rfl
@[simp] theorem State.accept_pe (s : State) (x : Stimulus) (rest : List Stimulus) : (s.accept x rest).pe = s.pe := rfl
@[simp] theorem State.accept_pl (s : State) (x : Stimulus) (rest : List Stimulus) : (s.accept x rest).pl = s.pl := rfl
@[simp] theorem State.accept_params (s : State) (x : Stimulus) (rest : List Stimulus) : (s.accept x rest).params = s.params := rfl
@[simp] theorem State.accept_env_now (s : State) (x : Stimulus) (rest : List Stimulus) : (s.accept x rest).env.now = s.env.now + x.dt := rfl
@[simp] theorem State.accept_env_alert (s : State) (x : Stimulus) (rest : List Stimulus) : (s.accept x rest).env.alert = x.alert := rfl
@[simp] theorem State.accept_env_answers (s : State) (x : Stimulus) (rest : List Stimulus) : (s.accept x rest).env.answers = x.answers := rfl
@[simp] theorem State.accept_env_oracle (s : State) (x : Stimulus) (rest : List Stimulus) : (s.accept x rest).env.oracle = s.env.oracle := rfl
@[simp] theorem State.accept_env_calls (s : State) (x : Stimulus) (rest : List Stimulus) : (s.accept x rest).env.calls = s.env.calls := rfl
@[simp] theorem State.accept_env_log (s : State) (x : Stimulus) (rest : List Stimulus) : (s.accept x rest).env.log = s.env.log := rfl
@[simp] theorem State.accept_port_inbox (s : State) (x : Stimulus) (rest : List Stimulus) : (s.accept x rest).port.inbox = rest := rfl
@[simp] theorem State.accept_port_reply (s : State) (x : Stimulus) (rest : List Stimulus) : (s.accept x rest).port.reply = s.port.reply := rfl

@[simp] theorem Pe.setCurrent_msgId (p : Pe) (t : Table) (k : BitVec 5) : (p.setCurrent t k).msgId = p.msgId := rfl
@[simp] theorem Pe.setCurrent_curTable (p : Pe) (t : Table) (k : BitVec 5) : (p.setCurrent t k).curTable = t := rfl
@[simp] theorem Pe.setCurrent_curIndex (p : Pe) (t : Table) (k : BitVec 5) : (p.setCurrent t k).curIndex = k := rfl
@[simp] theorem Pe.setCurrent_pdoCount (p : Pe) (t : Table) (k : BitVec 5) : (p.setCurrent t k).pdoCount = p.pdoCount := rfl
@[simp] theorem Pe.setCurrent_srcPdo (p : Pe) (t : Table) (k : BitVec 5) : (p.setCurrent t k).srcPdo = p.srcPdo := rfl
@[simp] theorem Pe.setCurrent_powerOption (p : Pe) (t : Table) (k : BitVec 5) : (p.setCurrent t k).powerOption = p.powerOption := rfl
@[simp] theorem Pe.setCurrent_ppsV (p : Pe) (t : Table) (k : BitVec 5) : (p.setCurrent t k).ppsV = p.ppsV := rfl
@[simp] theorem Pe.setCurrent_ppsI (p : Pe) (t : Table) (k : BitVec 5) : (p.setCurrent t k).ppsI = p.ppsI := rfl
@[simp] theorem Pe.setCurrent_selected (p : Pe) (t : Table) (k : BitVec 5) : (p.setCurrent t k).selected = p.selected := rfl
@[simp] theorem Pe.setCurrent_ppssV (p : Pe) (t : Table) (k : BitVec 5) : (p.setCurrent t k).ppssV = p.ppssV := rfl
@[simp] theorem Pe.setCurrent_ppssI (p : Pe) (t : Table) (k : BitVec 5) : (p.setCurrent t k).ppssI = p.ppssI := rfl
@[simp] theorem Pe.setCurrent_ppssFlags (p : Pe) (t : Table) (k : BitVec 5) : (p.setCurrent t k).ppssFlags = p.ppssFlags := rfl
@[simp] theorem Pe.withSource_msgId (p : Pe) (os : List Obj) : (p.withSource os).msgId = p.msgId := rfl
@[simp] theorem Pe.withSource_curTable (p : Pe) (os : List Obj) : (p.withSource os).curTable = p.curTable := rfl
@[simp] theorem Pe.withSource_curIndex (p : Pe) (os : List Obj) : (p.withSource os).curIndex = p.curIndex := rfl
@[simp] theorem Pe.withSource_pdoCount (p : Pe) (os : List Obj) : (p.withSource os).pdoCount = BitVec.ofNat 3 os.length := rfl
@[simp] theorem Pe.withSource_srcPdo (p : Pe) (os : List Obj) : (p.withSource os).srcPdo = Objs7.ofList os := rfl
@[simp] theorem Pe.withSource_powerOption (p : Pe) (os : List Obj) : (p.withSource os).powerOption = p.powerOption := rfl
@[simp] theorem Pe.withSource_ppsV (p : Pe) (os : List Obj) : (p.withSource os).ppsV = p.ppsV := rfl
@[simp] theorem Pe.withSource_ppsI (p : Pe) (os : List Obj) : (p.withSource os).ppsI = p.ppsI := rfl
@[simp] theorem Pe.withSource_selected (p : Pe) (os : List Obj) : (p.withSource os).selected = p.selected := rfl
@[simp] theorem Pe.withSource_ppssV (p : Pe) (os : List Obj) : (p.withSource os).ppssV = p.ppssV := rfl
@[simp] theorem Pe.withSource_ppssI (p : Pe) (os : List Obj) : (p.withSource os).ppssI = p.ppssI := rfl
@[simp] theorem Pe.withSource_ppssFlags (p : Pe) (os : List Obj) : (p.withSource os).ppssFlags = p.ppssFlags := rfl
@[simp] theorem Pe.withOption_msgId (p : Pe) (o : Byte) : (p.withOption o).msgId = p.msgId := rfl
@[simp] theorem Pe.withOption_curTable (p : Pe) (o : Byte) : (p.withOption o).curTable = p.curTable := rfl
@[simp] theorem Pe.withOption_curIndex (p : Pe) (o : Byte) : (p.withOption o).curIndex = p.curIndex := rfl
@[simp] theorem Pe.withOption_pdoCount (p : Pe) (o : Byte) : (p.withOption o).pdoCount = p.pdoCount := rfl
@[simp] theorem Pe.withOption_srcPdo (p : Pe) (o : Byte) : (p.withOption o).srcPdo = p.srcPdo := rfl
@[simp] theorem Pe.withOption_powerOption (p : Pe) (o : Byte) : (p.withOption o).powerOption = o.extractLsb' 0 3 := rfl
@[simp] theorem Pe.withOption_ppsV (p : Pe) (o : Byte) : (p.withOption o).ppsV = 0 := rfl
@[simp] theorem Pe.withOption_ppsI (p : Pe) (o : Byte) : (p.withOption o).ppsI = 0 := rfl
@[simp] theorem Pe.withOption_selected (p : Pe) (o : Byte) : (p.withOption o).selected = p.selected := rfl
@[simp] theorem Pe.withOption_ppssV (p : Pe) (o : Byte) : (p.withOption o).ppssV = p.ppssV := rfl
@[simp] theorem Pe.withOption_ppssI (p : Pe) (o : Byte) : (p.withOption o).ppssI = p.ppssI := rfl
@[simp] theorem Pe.withOption_ppssFlags (p : Pe) (o : Byte) : (p.withOption o).ppssFlags = p.ppssFlags := rfl
@[simp] theorem Pe.clear_msgId (p : Pe) : p.clear.msgId = 0 := rfl
@[simp] theorem Pe.clear_curTable (p : Pe) : p.clear.curTable = .none := rfl
@[simp] theorem Pe.clear_curIndex (p : Pe) : p.clear.curIndex = 0 := rfl
@[simp] theorem Pe.clear_pdoCount (p : Pe) : p.clear.pdoCount = p.pdoCount := rfl
@[simp] theorem Pe.clear_srcPdo (p : Pe) : p.clear.srcPdo = p.srcPdo := rfl
@[simp] theorem Pe.clear_powerOption (p : Pe) : p.clear.powerOption = p.powerOption := rfl
@[simp] theorem Pe.clear_ppsV (p : Pe) : p.clear.ppsV = p.ppsV := rfl
@[simp] theorem Pe.clear_ppsI (p : Pe) : p.clear.ppsI = p.ppsI := rfl
@[simp] theorem Pe.clear_selected (p : Pe) : p.clear.selected = p.selected := rfl
@[simp] theorem Pe.clear_ppssV (p : Pe) : p.clear.ppssV = p.ppssV := rfl
@[simp] theorem Pe.clear_ppssI (p : Pe) : p.clear.ppssI = p.ppssI := rfl
@[simp] theorem Pe.clear_ppssFlags (p : Pe) : p.clear.ppssFlags = p.ppssFlags := rfl

@[simp] theorem Pl.withReady_ready (p : Pl) (st : ReadyStatus) (mv ma : BitVec 32) : (p.withReady st mv ma).ready = p.ready := rfl
@[simp] theorem Pl.withReady_readyStatus (p : Pl) (st : ReadyStatus) (mv ma : BitVec 32) : (p.withReady st mv ma).readyStatus = st := rfl
@[simp] theorem Pl.withReady_readyMv (p : Pl) (st : ReadyStatus) (mv ma : BitVec 32) : (p.withReady st mv ma).readyMv = mv := rfl
@[simp] theorem Pl.withReady_readyMa (p : Pl) (st : ReadyStatus) (mv ma : BitVec 32) : (p.withReady st mv ma).readyMa = ma := rfl
@[simp] theorem Pl.withReady_waitSrcCap (p : Pl) (st : ReadyStatus) (mv ma : BitVec 32) : (p.withReady st mv ma).waitSrcCap = p.waitSrcCap := rfl
@[simp] theorem Pl.withReady_waitPsRdy (p : Pl) (st : ReadyStatus) (mv ma : BitVec 32) : (p.withReady st mv ma).waitPsRdy = p.waitPsRdy := rfl
@[simp] theorem Pl.withReady_reqPending (p : Pl) (st : ReadyStatus) (mv ma : BitVec 32) : (p.withReady st mv ma).reqPending = p.reqPending := rfl
@[simp] theorem Pl.withReady_srcCapRetry (p : Pl) (st : ReadyStatus) (mv ma : BitVec 32) : (p.withReady st mv ma).srcCapRetry = p.srcCapRetry := rfl
@[simp] theorem Pl.withReady_tPoll (p : Pl) (st : ReadyStatus) (mv ma : BitVec 32) : (p.withReady st mv ma).tPoll = p.tPoll := rfl
@[simp] theorem Pl.withReady_tSrcCap (p : Pl) (st : ReadyStatus) (mv ma : BitVec 32) : (p.withReady st mv ma).tSrcCap = p.tSrcCap := rfl
@[simp] theorem Pl.withReady_tPsRdy (p : Pl) (st : ReadyStatus) (mv ma : BitVec 32) : (p.withReady st mv ma).tPsRdy = p.tPsRdy := rfl
@[simp] theorem Pl.withReady_tPpsReq (p : Pl) (st : ReadyStatus) (mv ma : BitVec 32) : (p.withReady st mv ma).tPpsReq = p.tPpsReq := rfl
@[simp] theorem Pl.withReady_ppsVNext (p : Pl) (st : ReadyStatus) (mv ma : BitVec 32) : (p.withReady st mv ma).ppsVNext = p.ppsVNext := rfl
@[simp] theorem Pl.withReady_ppsINext (p : Pl) (st : ReadyStatus) (mv ma : BitVec 32) : (p.withReady st mv ma).ppsINext = p.ppsINext := rfl
@[simp] theorem Pl.notReady_ready (p : Pl) : p.notReady.ready = p.ready := rfl
@[simp] theorem Pl.notReady_readyStatus (p : Pl) : p.notReady.readyStatus = .notAvailable := rfl
@[simp] theorem Pl.notReady_readyMv (p : Pl) : p.notReady.readyMv = 0 := rfl
@[simp] theorem Pl.notReady_readyMa (p : Pl) : p.notReady.readyMa = 0 := rfl
@[simp] theorem Pl.notReady_waitSrcCap (p : Pl) : p.notReady.waitSrcCap = p.waitSrcCap := rfl
@[simp] theorem Pl.notReady_waitPsRdy (p : Pl) : p.notReady.waitPsRdy = p.waitPsRdy := rfl
@[simp] theorem Pl.notReady_reqPending (p : Pl) : p.notReady.reqPending = p.reqPending := rfl
@[simp] theorem Pl.notReady_srcCapRetry (p : Pl) : p.notReady.srcCapRetry = p.srcCapRetry := rfl
@[simp] theorem Pl.notReady_tPoll (p : Pl) : p.notReady.tPoll = p.tPoll := rfl
@[simp] theorem Pl.notReady_tSrcCap (p : Pl) : p.notReady.tSrcCap = p.tSrcCap := rfl
@[simp] theorem Pl.notReady_tPsRdy (p : Pl) : p.notReady.tPsRdy = p.tPsRdy := rfl
@[simp] theorem Pl.notReady_tPpsReq (p : Pl) : p.notReady.tPpsReq = p.tPpsReq := rfl
@[simp] theorem Pl.notReady_ppsVNext (p : Pl) : p.notReady.ppsVNext = p.ppsVNext := rfl
@[simp] theorem Pl.notReady_ppsINext (p : Pl) : p.notReady.ppsINext = p.ppsINext := rfl
@[simp] theorem Pl.clearWaits_ready (p : Pl) : p.clearWaits.ready = p.ready := rfl
@[simp] theorem Pl.clearWaits_readyStatus (p : Pl) : p.clearWaits.readyStatus = p.readyStatus := rfl
@[simp] theorem Pl.clearWaits_readyMv (p : Pl) : p.clearWaits.readyMv = p.readyMv := rfl
@[simp] theorem Pl.clearWaits_readyMa (p : Pl) : p.clearWaits.readyMa = p.readyMa := rfl
@[simp] theorem Pl.clearWaits_waitSrcCap (p : Pl) : p.clearWaits.waitSrcCap = false := rfl
@[simp] theorem Pl.clearWaits_waitPsRdy (p : Pl) : p.clearWaits.waitPsRdy = false := rfl
@[simp] theorem Pl.clearWaits_reqPending (p : Pl) : p.clearWaits.reqPending = false := rfl
@[simp] theorem Pl.clearWaits_srcCapRetry (p : Pl) : p.clearWaits.srcCapRetry = 0 := rfl
@[simp] theorem Pl.clearWaits_tPoll (p : Pl) : p.clearWaits.tPoll = p.tPoll := rfl
@[simp] theorem Pl.clearWaits_tSrcCap (p : Pl) : p.clearWaits.tSrcCap = p.tSrcCap := rfl
@[simp] theorem Pl.clearWaits_tPsRdy (p : Pl) : p.clearWaits.tPsRdy = p.tPsRdy := rfl
@[simp] theorem Pl.clearWaits_tPpsReq (p : Pl) : p.clearWaits.tPpsReq = p.tPpsReq := rfl
@[simp] theorem Pl.clearWaits_ppsVNext (p : Pl) : p.clearWaits.ppsVNext = p.ppsVNext := rfl
@[simp] theorem Pl.clearWaits_ppsINext (p : Pl) : p.clearWaits.ppsINext = p.ppsINext := rfl
@[simp] theorem Pl.reconfigured_ready (p : Pl) (b : Bool) : (p.reconfigured b).ready = p.ready := rfl
@[simp] theorem Pl.reconfigured_readyStatus (p : Pl) (b : Bool) : (p.reconfigured b).readyStatus = p.readyStatus := rfl
@[simp] theorem Pl.reconfigured_readyMv (p : Pl) (b : Bool) : (p.reconfigured b).readyMv = p.readyMv := rfl
@[simp] theorem Pl.reconfigured_readyMa (p : Pl) (b : Bool) : (p.reconfigured b).readyMa = p.readyMa := rfl
@[simp] theorem Pl.reconfigured_waitSrcCap (p : Pl) (b : Bool) : (p.reconfigured b).waitSrcCap = p.waitSrcCap := rfl
@[simp] theorem Pl.reconfigured_waitPsRdy (p : Pl) (b : Bool) : (p.reconfigured b).waitPsRdy = p.waitPsRdy := rfl
@[simp] theorem Pl.reconfigured_reqPending (p : Pl) (b : Bool) : (p.reconfigured b).reqPending = (p.reqPending || b) := rfl
@[simp] theorem Pl.reconfigured_srcCapRetry (p : Pl) (b : Bool) : (p.reconfigured b).srcCapRetry = p.srcCapRetry := rfl
@[simp] theorem Pl.reconfigured_tPoll (p : Pl) (b : Bool) : (p.reconfigured b).tPoll = p.tPoll := rfl
@[simp] theorem Pl.reconfigured_tSrcCap (p : Pl) (b : Bool) : (p.reconfigured b).tSrcCap = p.tSrcCap := rfl
@[simp] theorem Pl.reconfigured_tPsRdy (p : Pl) (b : Bool) : (p.reconfigured b).tPsRdy = p.tPsRdy := rfl
@[simp] theorem Pl.reconfigured_tPpsReq (p : Pl) (b : Bool) : (p.reconfigured b).tPpsReq = p.tPpsReq := rfl
@[simp] theorem Pl.reconfigured_ppsVNext (p : Pl) (b : Bool) : (p.reconfigured b).ppsVNext = 0 := rfl
@[simp] theorem Pl.reconfigured_ppsINext (p : Pl) (b : Bool) : (p.reconfigured b).ppsINext = 0 := rfl

@[simp] theorem Fr.initialised_ready (f : Fr) : f.initialised.ready = true := rfl
@[simp] theorem Fr.initialised_attach (f : Fr) : f.initialised.attach = .unattached := rfl
@[simp] theorem Fr.initialised_cc1 (f : Fr) : f.initialised.cc1 = .opn := rfl
@[simp] theorem Fr.initialised_cc2 (f : Fr) : f.initialised.cc2 = .opn := rfl
@[simp] theorem Fr.initialised_ccSel (f : Fr) : f.initialised.ccSel = .none := rfl
@[simp] theorem Fr.initialised_vbusSenseEn (f : Fr) : f.initialised.vbusSenseEn = true := rfl
@[simp] theorem Fr.initialised_vbusLast (f : Fr) : f.initialised.vbusLast = false := rfl
@[simp] theorem Fr.initialised_devId (f : Fr) : f.initialised.devId = f.devId := rfl
@[simp] theorem Fr.initialised_rxToken (f : Fr) : f.initialised.rxToken = f.rxToken := rfl
@[simp] theorem Fr.initialised_rxHdr (f : Fr) : f.initialised.rxHdr = f.rxHdr := rfl
@[simp] theorem Fr.initialised_rxObj (f : Fr) : f.initialised.rxObj = f.rxObj := rfl
@[simp] theorem Fr.received_ready (f : Fr) (b p : List Byte) : (f.received b p).ready = f.ready := rfl
@[simp] theorem Fr.received_attach (f : Fr) (b p : List Byte) : (f.received b p).attach = f.attach := rfl
@[simp] theorem Fr.received_cc1 (f : Fr) (b p : List Byte) : (f.received b p).cc1 = f.cc1 := rfl
@[simp] theorem Fr.received_cc2 (f : Fr) (b p : List Byte) : (f.received b p).cc2 = f.cc2 := rfl
@[simp] theorem Fr.received_ccSel (f : Fr) (b p : List Byte) : (f.received b p).ccSel = f.ccSel := rfl
@[simp] theorem Fr.received_vbusSenseEn (f : Fr) (b p : List Byte) : (f.received b p).vbusSenseEn = f.vbusSenseEn := rfl
@[simp] theorem Fr.received_vbusLast (f : Fr) (b p : List Byte) : (f.received b p).vbusLast = f.vbusLast := rfl
@[simp] theorem Fr.received_devId (f : Fr) (b p : List Byte) : (f.received b p).devId = f.devId := rfl

/-- INIT zeroes PL but for T_POLL, which a successful INIT writes later. -/
theorem Pl.cleared_eq (p : Pl) : p.cleared = { Pl.reset with tPoll := p.tPoll } := rfl

end Sys2Proof.Machine
end

