-- ==== Sys2Proof/Laws/Ops.lean ====
section
/-! SUPPORT. What the shared operations over the transport can do, said once: a primitive, "else return E", and a
sequence of primitives. Nothing here unfolds a command. -/

namespace Sys2Proof.Machine

open Sys2Proof.Config

/-! ## The environment's answers -/

theorem Env.nextAnswer_eq (e : Env) : e.nextAnswer = e.answerAt 0 := by
  unfold Env.nextAnswer Env.answerAt
  cases e.answers <;> rfl

@[simp] theorem Env.answerAt_issue (s : State) (c : XCall) (k : Nat) :
    (s.issue c).2.env.answerAt k = s.env.answerAt (k + 1) := by
  unfold Env.answerAt State.issue
  cases h : s.env.answers with
  | nil => simp only [List.tail_nil, List.getD_nil]; congr 1; omega
  | cons a as => simp only [List.tail_cons, List.getD_cons_succ]; congr 2; omega

@[simp] theorem Env.answerAt_delay (s : State) (n k : Nat) :
    (s.delay n).env.answerAt k = s.env.answerAt k := rfl

@[simp] theorem Env.answerAt_log (s : State) (kd : LogKind) (h : Option Half) (os : List Obj) (k : Nat) :
    (s.log kd h os).env.answerAt k = s.env.answerAt k := rfl

/-- A primitive's answer as data: what the environment answers first. -/
theorem State.issue_fst (s : State) (c : XCall) :
    (s.issue c).1 = c.receive s.env.oracle (s.env.answerAt 0) := by
  rw [← Env.nextAnswer_eq]; rfl

@[simp] theorem State.issue_fst_fail (s : State) (c : XCall) :
    (s.issue c).1.fail = (s.env.answerAt 0).fail.map c.errorOf := by rw [State.issue_fst]; rfl
@[simp] theorem State.issue_fst_dt (s : State) (c : XCall) : (s.issue c).1.dt = (s.env.answerAt 0).dt := by
  rw [State.issue_fst]; rfl
@[simp] theorem State.issue_fst_byte (s : State) (c : XCall) : (s.issue c).1.byte = (s.env.answerAt 0).byte := by
  rw [State.issue_fst]; rfl
@[simp] theorem State.issue_fst_status (s : State) (c : XCall) :
    (s.issue c).1.status = (s.env.answerAt 0).status := by rw [State.issue_fst]; rfl
@[simp] theorem State.issue_fst_level (s : State) (c : XCall) :
    (s.issue c).1.level = (s.env.answerAt 0).level := by rw [State.issue_fst]; rfl

/-- The clock after a primitive, and the trace. -/
@[simp] theorem State.issue_snd_env_now (s : State) (c : XCall) :
    (s.issue c).2.env.now = s.env.now + (s.env.answerAt 0).dt := by rw [← Env.nextAnswer_eq]; rfl
@[simp] theorem State.issue_snd_env_calls (s : State) (c : XCall) :
    (s.issue c).2.env.calls = s.env.calls ++ [⟨c, (s.env.answerAt 0).fail.map c.errorOf⟩] := by
  rw [← Env.nextAnswer_eq]; rfl

theorem State.succeeds_iff (s : State) (k : Nat) : s.succeeds k = true ↔ (s.env.answerAt k).fail = none := by
  rw [State.succeeds, Option.isNone_iff_eq_none]

theorem State.issue_fst_fail_none (s : State) (c : XCall) :
    (s.issue c).1.fail = none ↔ s.succeeds 0 = true := by
  rw [State.issue_fst_fail, State.succeeds, Option.isNone_iff_eq_none, Option.map_eq_none_iff]

/-- Whether a later primitive succeeds does not depend on which primitive comes first. -/
@[simp] theorem State.succeeds_issue (s : State) (c : XCall) (k : Nat) :
    (s.issue c).2.succeeds k = s.succeeds (k + 1) := by
  unfold State.succeeds; rw [Env.answerAt_issue]

@[simp] theorem State.succeeds_delay (s : State) (n k : Nat) : (s.delay n).succeeds k = s.succeeds k := rfl

@[simp] theorem State.bytesAt_issue (s : State) (c : XCall) (k n : Nat) :
    (s.issue c).2.bytesAt k n = s.bytesAt (k + 1) n := by
  unfold State.bytesAt; rw [Env.answerAt_issue, State.issue_snd_env_oracle]; congr 1; omega

/-! ## "else return E" -/

/-- A primitive that succeeds: the operation goes on with its answer. -/
theorem State.attempt_ok {α : Type} {s : State} {c : XCall} {f : Status → State → α} {k : XAnswer → State → α}
    (h : s.succeeds 0 = true) : s.attempt c f k = k (s.issue c).1 (s.issue c).2 := by
  unfold State.attempt; rw [(State.issue_fst_fail_none s c).2 h]

/-- A primitive that fails: the operation stops with the status of the failing direction. -/
theorem State.attempt_fail {α : Type} {s : State} {c : XCall} {f : Status → State → α} {k : XAnswer → State → α}
    {e : TransportError} (h : (s.env.answerAt 0).fail = some e) :
    s.attempt c f k = f (errorStatus (c.errorOf e)) (s.issue c).2 := by
  unfold State.attempt
  rw [State.issue_fst_fail, h]; rfl

theorem State.not_succeeds {s : State} {k : Nat} (h : s.succeeds k = false) :
    ∃ e, (s.env.answerAt k).fail = some e := by
  unfold State.succeeds at h
  cases h' : (s.env.answerAt k).fail with
  | none => rw [h'] at h; simp at h
  | some e => exact ⟨e, rfl⟩

/-- The same as one equation over what the environment answers. -/
theorem State.attempt_eq {α : Type} (s : State) (c : XCall) (f : Status → State → α) (k : XAnswer → State → α) :
    s.attempt c f k = match (s.env.answerAt 0).fail with
      | none => k (s.issue c).1 (s.issue c).2
      | some e => f (errorStatus (c.errorOf e)) (s.issue c).2 := by
  cases h : (s.env.answerAt 0).fail with
  | none => exact State.attempt_ok ((State.succeeds_iff s 0).2 h)
  | some e => exact State.attempt_fail h

/-- What `attempt` can do, once and for all: it goes on after one successful call, or stops after one failed call. -/
theorem State.attempt_cases {α : Type} (s : State) (c : XCall) (f : Status → State → α) (k : XAnswer → State → α) :
    (s.succeeds 0 = true ∧ s.attempt c f k = k (s.issue c).1 (s.issue c).2) ∨
    ∃ e, (s.env.answerAt 0).fail = some e ∧ s.attempt c f k = f (errorStatus (c.errorOf e)) (s.issue c).2 := by
  cases h : s.succeeds 0 with
  | true => exact .inl ⟨rfl, State.attempt_ok h⟩
  | false => obtain ⟨e, he⟩ := State.not_succeeds h; exact .inr ⟨e, he, State.attempt_fail he⟩

@[simp] theorem Status.code_errorStatus (e : TransportError) : (errorStatus e).code = errorByte e := by cases e <;> rfl

/-- A status is OK, Busy or NotInitialised only where an operation says so: a failed primitive is neither. -/
theorem errorStatus_ne (e : TransportError) : errorStatus e ≠ .ok ∧ errorStatus e ≠ .busy := by
  cases e <;> simp [errorStatus]

/-! ## Sequences of primitives -/

@[simp] theorem State.after_nil (s : State) : s.after [] = s := rfl

@[simp] theorem State.after_delay (s : State) (n : Nat) (cs : List XCall) :
    s.after (.delayMs n :: cs) = (s.delay n).after cs := rfl

/-- A call that is no delay asks the environment once. -/
theorem State.after_issue (s : State) {c : XCall} (cs : List XCall) (h : ∀ n, c ≠ .delayMs n) :
    s.after (c :: cs) = (s.issue c).2.after cs := by
  cases c <;> first | rfl | exact absurd rfl (h _)

theorem State.after_append (s : State) (as bs : List XCall) : s.after (as ++ bs) = (s.after as).after bs := by
  induction as generalizing s with
  | nil => rfl
  | cons c cs ih => cases c <;> exact ih _

/-- What one more call leaves as it is, whichever call it is. -/
theorem State.after_cons_cases (s : State) (c : XCall) (cs : List XCall) :
    s.after (c :: cs) = (s.issue c).2.after cs ∨ ∃ n, c = .delayMs n ∧ s.after (c :: cs) = (s.delay n).after cs := by
  cases c <;> first | exact .inl rfl | exact .inr ⟨_, rfl, rfl⟩

/-- A sequence of primitives changes the environment only, there the clock, the answers, their number and the trace. -/
theorem State.after_keeps (s : State) (cs : List XCall) :
    (s.after cs).fr = s.fr ∧ (s.after cs).pe = s.pe ∧ (s.after cs).pl = s.pl ∧ (s.after cs).port = s.port ∧
    (s.after cs).params = s.params ∧ (s.after cs).env.log = s.env.log ∧ (s.after cs).env.alert = s.env.alert := by
  induction cs generalizing s with
  | nil => exact ⟨rfl, rfl, rfl, rfl, rfl, rfl, rfl⟩
  | cons c cs ih =>
    rcases s.after_cons_cases c cs with h | ⟨n, -, h⟩ <;> rw [h] <;> exact ih _

@[simp] theorem State.after_fr (s : State) (cs : List XCall) : (s.after cs).fr = s.fr := (s.after_keeps cs).1
@[simp] theorem State.after_pe (s : State) (cs : List XCall) : (s.after cs).pe = s.pe := (s.after_keeps cs).2.1
@[simp] theorem State.after_pl (s : State) (cs : List XCall) : (s.after cs).pl = s.pl := (s.after_keeps cs).2.2.1
@[simp] theorem State.after_port (s : State) (cs : List XCall) : (s.after cs).port = s.port :=
  (s.after_keeps cs).2.2.2.1
@[simp] theorem State.after_params (s : State) (cs : List XCall) : (s.after cs).params = s.params :=
  (s.after_keeps cs).2.2.2.2.1
@[simp] theorem State.after_log (s : State) (cs : List XCall) : (s.after cs).env.log = s.env.log :=
  (s.after_keeps cs).2.2.2.2.2.1
@[simp] theorem State.after_alert (s : State) (cs : List XCall) : (s.after cs).env.alert = s.env.alert :=
  (s.after_keeps cs).2.2.2.2.2.2

/-- A sequence only adds to the trace, and the count of primitives only grows. -/
theorem State.after_extends (s : State) (cs : List XCall) :
    (∃ l, (s.after cs).env.calls = s.env.calls ++ l) ∧ s.env.oracle ≤ (s.after cs).env.oracle := by
  induction cs generalizing s with
  | nil => exact ⟨⟨[], (List.append_nil _).symm⟩, Nat.le_refl _⟩
  | cons c cs ih =>
    rcases s.after_cons_cases c cs with h | ⟨n, -, h⟩ <;> rw [h]
    · obtain ⟨⟨l, hl⟩, ho⟩ := ih (s.issue c).2
      refine ⟨⟨_, by rw [hl, State.issue_snd_env_calls, List.append_assoc]⟩, ?_⟩
      rw [State.issue_snd_env_oracle] at ho; omega
    · obtain ⟨⟨l, hl⟩, ho⟩ := ih (s.delay n)
      exact ⟨⟨_, by rw [hl, State.delay_env_calls, List.append_assoc]⟩, ho⟩

/-- The environment after a sequence depends on the environment before it only. -/
theorem State.after_env_congr {s t : State} (h : s.env = t.env) (cs : List XCall) :
    (s.after cs).env = (t.after cs).env := by
  induction cs generalizing s t with
  | nil => exact h
  | cons c cs ih =>
    have hi : (s.issue c).2.env = (t.issue c).2.env := by simp only [State.issue, h]
    have hd : ∀ n, (s.delay n).env = (t.delay n).env := fun n => by simp only [State.delay, h]
    cases c <;> first | exact ih hi | exact ih (hd _)

/-- Putting registers aside while a sequence runs: it never looks at them. -/
theorem State.after_eq (s : State) (cs : List XCall) : s.after cs = { s with env := (s.after cs).env } := by
  have h := s.after_keeps cs
  cases hs : s.after cs; rw [hs] at h; simp only at h ⊢
  obtain ⟨h1, h2, h3, h4, h5, -, -⟩ := h
  rw [h1, h2, h3, h4, h5]

/-- Registers of FR written before a sequence are there after it. -/
theorem State.after_with_fr (s : State) (f : Fr) (cs : List XCall) :
    State.after { s with fr := f } cs = { s.after cs with fr := f } := by
  induction cs generalizing s with
  | nil => rfl
  | cons c cs ih => cases c <;> first | exact ih (s.delay _) | exact ih (s.issue _).2

/-- Two states with the same environment go through a sequence alike, each keeping its registers. -/
theorem State.after_of_env {s t : State} (h : s.env = t.env) (cs : List XCall) :
    s.after cs = { s with env := (t.after cs).env } := by
  rw [State.after_eq, State.after_env_congr h]

/-! ## Bytes of the receive FIFO -/

theorem fillBytes_length (k n i : Nat) (bs : List Byte) : (fillBytes k n i bs).length = n := by
  induction n generalizing i bs with
  | zero => rfl
  | succ n ih => cases bs <;> simp [fillBytes, ih]

/-- The bytes that were there come first, as they are. -/
theorem fillBytes_getD (k n i j : Nat) (bs : List Byte) (hj : j < n) :
    (fillBytes k n i bs).getD j 0 = if j < bs.length then bs.getD j 0 else Config.freeByte k (i + j) := by
  induction n generalizing i j bs with
  | zero => omega
  | succ n ih =>
    cases bs with
    | nil =>
      cases j with
      | zero => simp [fillBytes]
      | succ j =>
        simp only [fillBytes, List.getD_cons_succ, ih (i + 1) j [] (by omega)]
        simp only [List.length_nil, Nat.not_lt_zero, if_false]; congr 1; omega
    | cons b bs =>
      cases j with
      | zero => simp [fillBytes]
      | succ j =>
        simp only [fillBytes, List.getD_cons_succ, ih (i + 1) j bs (by omega), List.length_cons,
          Nat.add_lt_add_iff_right]
        split
        · rfl
        · congr 1; omega

theorem State.bytesAt_length (s : State) (k n : Nat) : (s.bytesAt k n).length = n := fillBytes_length ..

/-- The bytes an `X.rx_read(n)` returns. -/
@[simp] theorem State.issue_rxRead_bytes (s : State) (n : Nat) : (s.issue (.rxRead n)).1.bytes = s.bytesAt 0 n := by
  rw [State.issue_fst]; rfl

/-! ## Objects as lists -/

theorem present_length (n : Nat) (os : List Obj) : (present n os).length = n := by
  induction n generalizing os with
  | zero => rfl
  | succ n ih => cases os <;> simp [present, ih]

/-- As many objects as are asked for: nothing is added or taken away. -/
theorem present_eq {n : Nat} {os : List Obj} (h : os.length = n) : present n os = os := by
  induction n generalizing os with
  | zero => cases os <;> simp_all [present]
  | succ n ih => cases os with
    | nil => simp at h
    | cons o os => simp [present, ih (Nat.succ.inj h)]

theorem present_eq_take {n : Nat} {os : List Obj} (h : n ≤ os.length) : present n os = os.take n := by
  induction n generalizing os with
  | zero => rfl
  | succ n ih => cases os with
    | nil => simp at h
    | cons o os => simp [present, ih (Nat.le_of_succ_le_succ h)]

/-- An object at or above the count reads 0, one below it is the list's. -/
theorem present_getD (n i : Nat) (os : List Obj) :
    (present n os).getD i 0 = if i < n then os.getD i 0 else 0 := by
  induction n generalizing i os with
  | zero => simp [present]
  | succ n ih =>
    cases os with
    | nil =>
      cases i with
      | zero => simp [present]
      | succ i => simp only [present, List.getD_cons_succ, ih, List.getD_nil, ite_self]
    | cons o os =>
      cases i with
      | zero => simp [present]
      | succ i => simp only [present, List.getD_cons_succ, ih, Nat.add_lt_add_iff_right]

theorem objectCount_eq (h : Half) : objectCount h = h.toNat / 2 ^ 12 % 8 := by
  simp [objectCount, BitVec.extractLsb'_toNat, Nat.shiftRight_eq_div_pow]

theorem objectCount_lt (h : Half) : objectCount h < 8 := by rw [objectCount_eq]; omega

theorem Objs7.toList_length (o : Objs7) : o.toList.length = 7 := rfl

theorem Objs7.get_eq_getD (o : Objs7) (i : Nat) : o.get i = o.toList.getD i 0 := by
  match i with
  | 0 | 1 | 2 | 3 | 4 | 5 | 6 => rfl
  | n + 7 => simp [Objs7.get, Objs7.toList]

theorem Objs7.ofList_get (l : List Obj) (i : Nat) : (Objs7.ofList l).get i = if i < 7 then l.getD i 0 else 0 := by
  match i with
  | 0 | 1 | 2 | 3 | 4 | 5 | 6 => rfl
  | n + 7 => simp [Objs7.get]

end Sys2Proof.Machine
end

