-- ==== Sys2Proof/Laws/Codec.lean ====
section
/-! SUPPORT. The byte order, the header fields, and how each shape of instruction reads back from its bytes. -/

namespace Sys2Proof

/-! ## Byte order -/

theorem ofLe16_toNat (lo hi : Byte) : (ofLe16 lo hi).toNat = lo.toNat + hi.toNat * 2 ^ 8 := by
  have h1 := lo.isLt
  rw [ofLe16, BitVec.toNat_append, Nat.shiftLeft_eq, Nat.mul_comm, ← Nat.two_pow_add_eq_or_of_lt h1]; omega

theorem ofLe16_le16 (h : Half) : ofLe16 (h.extractLsb' 0 8) (h.extractLsb' 8 8) = h := by
  apply BitVec.eq_of_toNat_eq
  rw [ofLe16_toNat, BitVec.extractLsb'_toNat, BitVec.extractLsb'_toNat, Nat.shiftRight_eq_div_pow,
    Nat.shiftRight_eq_div_pow]
  have := h.isLt; omega

theorem ofLe32_toNat (b0 b1 b2 b3 : Byte) :
    (ofLe32 b0 b1 b2 b3).toNat
      = b0.toNat + b1.toNat * 2 ^ 8 + b2.toNat * 2 ^ 16 + b3.toNat * 2 ^ 24 := by
  have h0 := b0.isLt; have h1 := b1.isLt; have h2 := b2.isLt; have h3 := b3.isLt
  have e1 : (b3 ++ b2).toNat = b2.toNat + b3.toNat * 2 ^ 8 := ofLe16_toNat b2 b3
  have e2 : (b3 ++ b2 ++ b1).toNat = b1.toNat + (b3 ++ b2).toNat * 2 ^ 8 := by
    rw [BitVec.toNat_append, Nat.shiftLeft_eq, Nat.mul_comm, ← Nat.two_pow_add_eq_or_of_lt h1]; omega
  rw [ofLe32, BitVec.toNat_append, Nat.shiftLeft_eq, Nat.mul_comm, ← Nat.two_pow_add_eq_or_of_lt h0, e2, e1]; omega

theorem ofLe32_le32 (w : Obj) :
    ofLe32 (w.extractLsb' 0 8) (w.extractLsb' 8 8) (w.extractLsb' 16 8) (w.extractLsb' 24 8) = w := by
  apply BitVec.eq_of_toNat_eq
  rw [ofLe32_toNat]
  simp only [BitVec.extractLsb'_toNat, Nat.shiftRight_eq_div_pow]
  have := w.isLt; omega

theorem le16_ofLe16 (lo hi : Byte) : le16 (ofLe16 lo hi) = [lo, hi] := by
  have h1 := lo.isLt; have h2 := hi.isLt
  simp only [le16, List.cons.injEq, and_true]
  constructor <;> apply BitVec.eq_of_toNat_eq <;>
    simp only [BitVec.extractLsb'_toNat, Nat.shiftRight_eq_div_pow, ofLe16_toNat] <;> omega

/-- A header read off its bytes. -/
theorem le16_inj {a b : Half} {r r' : List Byte} (h : le16 a ++ r = le16 b ++ r') : a = b ∧ r = r' := by
  simp only [le16, List.cons_append, List.nil_append, List.cons.injEq] at h
  exact ⟨by rw [← ofLe16_le16 a, ← ofLe16_le16 b, h.1, h.2.1], h.2.2⟩

theorem le32_ofLe32 (b0 b1 b2 b3 : Byte) : le32 (ofLe32 b0 b1 b2 b3) = [b0, b1, b2, b3] := by
  have h0 := b0.isLt; have h1 := b1.isLt; have h2 := b2.isLt; have h3 := b3.isLt
  simp only [le32, List.cons.injEq, and_true]
  refine ⟨?_, ?_, ?_, ?_⟩ <;> apply BitVec.eq_of_toNat_eq <;>
    simp only [BitVec.extractLsb'_toNat, Nat.shiftRight_eq_div_pow, ofLe32_toNat] <;> omega

theorem le16_eq (h : Half) : le16 h = [BitVec.ofNat 8 h.toNat, BitVec.ofNat 8 (h.toNat / 2 ^ 8)] := by
  simp only [le16, List.cons.injEq, and_true]
  constructor <;> apply BitVec.eq_of_toNat_eq <;>
    (simp only [BitVec.extractLsb'_toNat, Nat.shiftRight_eq_div_pow, BitVec.toNat_ofNat]; try omega)

theorem le32_eq (w : Obj) : le32 w = [BitVec.ofNat 8 w.toNat, BitVec.ofNat 8 (w.toNat / 2 ^ 8),
    BitVec.ofNat 8 (w.toNat / 2 ^ 16), BitVec.ofNat 8 (w.toNat / 2 ^ 24)] := by
  simp only [le32, List.cons.injEq, and_true]
  refine ⟨?_, ?_, ?_, ?_⟩ <;> apply BitVec.eq_of_toNat_eq <;>
    (simp only [BitVec.extractLsb'_toNat, Nat.shiftRight_eq_div_pow, BitVec.toNat_ofNat]; try omega)

theorem objsBytes_eq_flatMap (os : List Obj) : objsBytes os = os.flatMap le32 := by
  induction os with
  | nil => rfl
  | cons o os ih => simp [objsBytes, ih]

theorem objsBytes_length (os : List Obj) : (objsBytes os).length = 4 * os.length := by
  induction os with
  | nil => rfl
  | cons o os ih => simp [objsBytes, le32, ih]; omega

/-! ## Objects read back -/

/-- Reading as many objects as were written gives them back, and what follows them. -/
theorem takeObjs_objsBytes (os : List Obj) (rest : List Byte) :
    takeObjs os.length (objsBytes os ++ rest) = some (os, rest) := by
  induction os with
  | nil => rfl
  | cons o os ih =>
    simp only [List.length_cons, objsBytes, le32, List.cons_append, List.nil_append, takeObjs, ih, ofLe32_le32]

theorem takeObjs_eq {n : Nat} {os : List Obj} (h : os.length = n) :
    takeObjs n (objsBytes os) = some (os, []) := by
  have := takeObjs_objsBytes os []; rwa [List.append_nil, h] at this

/-- What is read is what the bytes begin with. -/
theorem takeObjs_some {n : Nat} {bs : List Byte} {os : List Obj} {rest : List Byte}
    (h : takeObjs n bs = some (os, rest)) : os.length = n ∧ bs = objsBytes os ++ rest := by
  induction n generalizing bs os rest with
  | zero => simp only [takeObjs, Option.some.injEq, Prod.mk.injEq] at h; obtain ⟨rfl, rfl⟩ := h; exact ⟨rfl, rfl⟩
  | succ n ih =>
    match bs, h with
    | b0 :: b1 :: b2 :: b3 :: bs, h =>
      simp only [takeObjs] at h
      cases h' : takeObjs n bs with
      | none => rw [h'] at h; simp at h
      | some r =>
        rw [h'] at h
        simp only [Option.some.injEq, Prod.mk.injEq] at h
        obtain ⟨rfl, rfl⟩ := h
        obtain ⟨h1, h2⟩ := ih h'
        exact ⟨by simp [h1], by rw [h2]; simp [objsBytes, le32_ofLe32]⟩
    | [], h | [_], h | [_, _], h | [_, _, _], h => simp [takeObjs] at h

/-! ## The header's fields -/

/-- The bits of a received header, one field each. -/
theorem rxHeader_toNat (typ : BitVec 5) (f : RxFields) (count : BitVec 3) (ext : BitVec 1) :
    (rxHeader typ f count ext).toNat = typ.toNat + f.bit5.toNat * 2 ^ 5 + f.rev.toNat * 2 ^ 6 + f.bit8.toNat * 2 ^ 8
      + f.id.toNat * 2 ^ 9 + count.toNat * 2 ^ 12 + ext.toNat * 2 ^ 15 := by
  have h1 := typ.isLt; have h2 := f.bit5.isLt; have h3 := f.rev.isLt; have h4 := f.bit8.isLt; have h5 := f.id.isLt
  have h6 := count.isLt
  simp only [rxHeader, BitVec.toNat_append, Nat.shiftLeft_eq]
  rw [Nat.mul_comm _ (2 ^ 5), ← Nat.two_pow_add_eq_or_of_lt h1,
    Nat.mul_comm _ (2 ^ 1), ← Nat.two_pow_add_eq_or_of_lt h2, Nat.mul_comm _ (2 ^ 2), ← Nat.two_pow_add_eq_or_of_lt h3,
    Nat.mul_comm _ (2 ^ 1), ← Nat.two_pow_add_eq_or_of_lt h4, Nat.mul_comm _ (2 ^ 3), ← Nat.two_pow_add_eq_or_of_lt h5,
    Nat.mul_comm _ (2 ^ 3), ← Nat.two_pow_add_eq_or_of_lt h6]
  omega

/-- A field of a 16-bit value, as a number. -/
theorem half_field (h : Half) (lo width : Nat) : (h.extractLsb' lo width).toNat = h.toNat / 2 ^ lo % 2 ^ width := by
  rw [BitVec.extractLsb'_toNat, Nat.shiftRight_eq_div_pow]

theorem rxHeader_typ (typ : BitVec 5) (f : RxFields) (count : BitVec 3) (ext : BitVec 1) :
    (rxHeader typ f count ext).extractLsb' 0 5 = typ := by
  apply BitVec.eq_of_toNat_eq; rw [half_field, rxHeader_toNat]; have := typ.isLt; omega

theorem rxHeader_count (typ : BitVec 5) (f : RxFields) (count : BitVec 3) (ext : BitVec 1) :
    objectCount (rxHeader typ f count ext) = count.toNat := by
  rw [objectCount, half_field, rxHeader_toNat]
  have h1 := typ.isLt; have h2 := f.bit5.isLt; have h3 := f.rev.isLt; have h4 := f.bit8.isLt; have h5 := f.id.isLt
  have h6 := count.isLt; omega

theorem rxHeader_ext (typ : BitVec 5) (f : RxFields) (count : BitVec 3) (ext : BitVec 1) :
    (rxHeader typ f count ext).extractLsb' 15 1 = ext := by
  apply BitVec.eq_of_toNat_eq; rw [half_field, rxHeader_toNat]
  have h1 := typ.isLt; have h2 := f.bit5.isLt; have h3 := f.rev.isLt; have h4 := f.bit8.isLt; have h5 := f.id.isLt
  have h6 := count.isLt; have h7 := ext.isLt; omega

theorem rxHeader_fields (typ : BitVec 5) (f : RxFields) (count : BitVec 3) (ext : BitVec 1) :
    rxFieldsOf (rxHeader typ f count ext) = f := by
  have h1 := typ.isLt; have h2 := f.bit5.isLt; have h3 := f.rev.isLt; have h4 := f.bit8.isLt; have h5 := f.id.isLt
  have h6 := count.isLt
  have e := rxHeader_toNat typ f count ext
  cases f
  simp only [rxFieldsOf, RxFields.mk.injEq] at *
  refine ⟨?_, ?_, ?_, ?_⟩ <;> apply BitVec.eq_of_toNat_eq <;> rw [half_field, e] <;> omega

/-- Every header is made of its fields. -/
theorem rxHeader_of (h : Half) :
    rxHeader (h.extractLsb' 0 5) (rxFieldsOf h) (h.extractLsb' 12 3) (h.extractLsb' 15 1) = h := by
  apply BitVec.eq_of_toNat_eq
  rw [rxHeader_toNat]
  simp only [rxFieldsOf, half_field]
  have := h.isLt; omega

/-! ## What each shape of received message reads back as -/

theorem decodeRx_bytes (h : Half) (os : List Obj) (hc : os.length = objectCount h) :
    decode .rx (le16 h ++ objsBytes os) = .instr (rxInstr h os) := by
  simp only [decode, decodeRx, readFrame, readU16, le16, List.cons_append, List.nil_append, ofLe16_le16,
    takeObjs_eq hc]

theorem decode_ctrlBytes (typ : BitVec 5) (f : RxFields) :
    decode .rx (ctrlBytes typ f) = .instr (ctrlInstr typ f) := by
  have h := decodeRx_bytes (rxHeader typ f 0 0) [] (by rw [rxHeader_count]; rfl)
  rw [objsBytes, List.append_nil] at h
  rw [ctrlBytes, h, rxInstr, if_neg (by rw [rxHeader_ext]; decide), if_pos (by rw [rxHeader_count]; rfl),
    rxHeader_typ, rxHeader_fields]

theorem decode_dataBytes (typ : BitVec 5) (f : RxFields) (os : List Obj) (h : dataObjs os = true) :
    decode .rx (dataBytes typ f os) = .instr (dataInstr typ f os) := by
  simp only [dataObjs, Bool.and_eq_true, decide_eq_true_eq] at h
  have hn : (BitVec.ofNat 3 os.length).toNat = os.length := by rw [BitVec.toNat_ofNat]; omega
  rw [dataBytes, decodeRx_bytes _ _ (by rw [rxHeader_count, hn]), rxInstr, if_neg (by rw [rxHeader_ext]; decide),
    if_neg (by rw [rxHeader_count, hn]; omega), rxHeader_typ, rxHeader_fields]

theorem decode_extBytes (typ : BitVec 5) (f : RxFields) (os : List Obj) (h : extObjs os = true) :
    decode .rx (extBytes typ f os) = .instr (extInstr typ f os) := by
  simp only [extObjs, decide_eq_true_eq] at h
  have hn : (BitVec.ofNat 3 os.length).toNat = os.length := by rw [BitVec.toNat_ofNat]; omega
  rw [extBytes, decodeRx_bytes _ _ (by rw [rxHeader_count, hn]), rxInstr, if_pos (by rw [rxHeader_ext]),
    rxHeader_typ, rxHeader_fields]

/-- A catch-all is reached by every type at or above the last index of its table. -/
theorem ctrlInstr_other (typ : BitVec 5) (f : RxFields) (h : 23 ≤ typ.toNat) : ctrlInstr typ f = .rxCOther typ f := by
  unfold ctrlInstr; split <;> first | omega | rfl

theorem dataInstr_other (typ : BitVec 5) (f : RxFields) (os : List Obj) (h : 16 ≤ typ.toNat) :
    dataInstr typ f os = .rxDOther typ f os := by
  unfold dataInstr; split <;> first | omega | rfl

theorem extInstr_other (typ : BitVec 5) (f : RxFields) (os : List Obj) (h : 16 ≤ typ.toNat) :
    extInstr typ f os = .rxEOther typ f os := by
  unfold extInstr; split <;> first | omega | rfl

/-! ## Generated headers -/

theorem genHeader_toNat (typ : BitVec 5) (rev : BitVec 2) (id count : BitVec 3) (ext : BitVec 1) :
    (genHeader typ rev id count ext).toNat
      = typ.toNat + rev.toNat * 2 ^ 6 + id.toNat * 2 ^ 9 + count.toNat * 2 ^ 12 + ext.toNat * 2 ^ 15 := by
  have h1 := typ.isLt; have h2 := rev.isLt; have h3 := id.isLt; have h4 := count.isLt; have h5 := ext.isLt
  simp only [genHeader, BitVec.toNat_add, BitVec.toNat_shiftLeft, BitVec.toNat_setWidth, Nat.shiftLeft_eq]
  omega

/-- A generated header is a received one with bits 5 and 8 zero. -/
theorem genHeader_eq_rxHeader (typ : BitVec 5) (rev : BitVec 2) (id count : BitVec 3) (ext : BitVec 1) :
    genHeader typ rev id count ext = rxHeader typ ⟨rev, id, 0, 0⟩ count ext := by
  apply BitVec.eq_of_toNat_eq; rw [genHeader_toNat, rxHeader_toNat]; simp

end Sys2Proof
end

