-- ==== Sys2Proof/Laws/Codes.lean ====
section
/-! SUPPORT. The MSG_TYPE codes (spec/00_scope.md R9): codes and rows are inverse to one another, and so are the two
translations of a header and of a byte string. -/

namespace Sys2Proof

open Sys2Proof.Config

/-! ## Codes and rows -/

theorem codesPermute_iff {n : Nat} {codes : List (BitVec 5)} :
    codesPermute n codes = true ↔ codes.length = n ∧ (∀ c ∈ codes, c.toNat < n) ∧ codes.Nodup := by
  simp [codesPermute, and_assoc]

/-- Every value below the table's length is the code of an entry. -/
theorem mem_of_codesPermute {n : Nat} {codes : List (BitVec 5)} (h : codesPermute n codes = true) {c : BitVec 5}
    (hc : c.toNat < n) : c ∈ codes := by
  obtain ⟨hl, hlt, hn⟩ := codesPermute_iff.1 h
  have hinj : Function.Injective (BitVec.toNat : BitVec 5 → Nat) := fun a b e => BitVec.eq_of_toNat_eq e
  have hsub : (codes.map BitVec.toNat).toFinset ⊆ Finset.range n := by
    intro k hk
    obtain ⟨d, hd, rfl⟩ := List.mem_map.1 (List.mem_toFinset.1 hk)
    exact Finset.mem_range.2 (hlt d hd)
  have hcard : (codes.map BitVec.toNat).toFinset.card = n := by
    rw [List.toFinset_card_of_nodup (hn.map hinj), List.length_map, hl]
  have heq := Finset.eq_of_subset_of_card_le hsub (by rw [hcard, Finset.card_range])
  have hmem : c.toNat ∈ (codes.map BitVec.toNat).toFinset := heq ▸ Finset.mem_range.2 hc
  obtain ⟨d, hd, he⟩ := List.mem_map.1 (List.mem_toFinset.1 hmem)
  exact hinj he ▸ hd

/-- The row of a code is the row the code was given to. -/
theorem rowIn_codeIn {n : Nat} {codes : List (BitVec 5)} (h : codesPermute n codes = true) (k : BitVec 5) :
    rowIn codes (codeIn codes k) = k := by
  obtain ⟨hl, hlt, hn⟩ := codesPermute_iff.1 h
  by_cases hk : k.toNat < codes.length
  · have hg : codeIn codes k = codes[k.toNat] := by
      rw [codeIn, List.getD_eq_getElem?_getD, List.getElem?_eq_getElem hk]; rfl
    have hc := hlt _ (List.getElem_mem hk)
    rw [hg, rowIn, if_pos (by omega), hn.idxOf_getElem _ hk]
    exact BitVec.eq_of_toNat_eq (by rw [BitVec.toNat_ofNat]; exact Nat.mod_eq_of_lt k.isLt)
  · have hg : codeIn codes k = k := by
      rw [codeIn, List.getD_eq_getElem?_getD, List.getElem?_eq_none (by omega)]; rfl
    rw [hg, rowIn, if_neg hk]

/-- The code of the row a code has is that code. -/
theorem codeIn_rowIn {n : Nat} {codes : List (BitVec 5)} (h : codesPermute n codes = true) (hn : n ≤ 32)
    (c : BitVec 5) : codeIn codes (rowIn codes c) = c := by
  obtain ⟨hl, -, -⟩ := codesPermute_iff.1 h
  by_cases hc : c.toNat < codes.length
  · have hi := List.idxOf_lt_length_iff.2 (mem_of_codesPermute h (c := c) (by omega))
    have ht : (BitVec.ofNat 5 (codes.idxOf c)).toNat = codes.idxOf c := by
      rw [BitVec.toNat_ofNat]; exact Nat.mod_eq_of_lt (by omega)
    rw [rowIn, if_pos hc, codeIn, ht, List.getD_eq_getElem?_getD, List.getElem?_eq_getElem hi]
    exact List.getElem_idxOf hi
  · rw [rowIn, if_neg hc, codeIn, List.getD_eq_getElem?_getD, List.getElem?_eq_none (by omega)]; rfl

/-- A code is below its table's length exactly where its row is. -/
theorem codeIn_lt_iff {n : Nat} {codes : List (BitVec 5)} (h : codesPermute n codes = true) (k : BitVec 5) :
    (codeIn codes k).toNat < n ↔ k.toNat < n := by
  obtain ⟨hl, hlt, -⟩ := codesPermute_iff.1 h
  by_cases hk : k.toNat < codes.length
  · have hg : codeIn codes k = codes[k.toNat] := by
      rw [codeIn, List.getD_eq_getElem?_getD, List.getElem?_eq_getElem hk]; rfl
    have := hlt _ (List.getElem_mem hk)
    rw [hg]; omega
  · have hg : codeIn codes k = k := by
      rw [codeIn, List.getD_eq_getElem?_getD, List.getElem?_eq_none (by omega)]; rfl
    rw [hg]

theorem codes_wf {c : TypeCodes} (h : c.wf = true) :
    codesPermute 23 c.ctrl = true ∧ codesPermute 16 c.data = true ∧ codesPermute 16 c.ext = true := by
  simpa [TypeCodes.wf, and_assoc] using h

/-- The codes of 30_encoding.md R95 to R97 are the rows themselves. -/
theorem codeIn_default (k : BitVec 5) :
    codeIn Machine.defaultCodes.ctrl k = k ∧ codeIn Machine.defaultCodes.data k = k ∧
    codeIn Machine.defaultCodes.ext k = k := by revert k; decide

theorem rowIn_default (k : BitVec 5) :
    rowIn Machine.defaultCodes.ctrl k = k ∧ rowIn Machine.defaultCodes.data k = k ∧
    rowIn Machine.defaultCodes.ext k = k := by revert k; decide

/-! ## The machine's tables -/

theorem tableCodes_permute {p : Params} (h : p.codes.wf = true) {t : Machine.Table} (ht : t ≠ .none) :
    codesPermute (Machine.lastIndex t) (Machine.tableCodes p t) = true := by
  obtain ⟨h1, h2, h3⟩ := codes_wf h
  cases t <;> first | exact absurd rfl ht | assumption

@[simp] theorem codeRow_typeCode {p : Params} (h : p.codes.wf = true) (t : Machine.Table) (k : BitVec 5) :
    Machine.codeRow p t (Machine.typeCode p t k) = k := by
  cases t with
  | none => rfl
  | ctrl | data | ext => exact rowIn_codeIn (tableCodes_permute h (by decide)) k

@[simp] theorem typeCode_codeRow {p : Params} (h : p.codes.wf = true) (t : Machine.Table) (c : BitVec 5) :
    Machine.typeCode p t (Machine.codeRow p t c) = c := by
  cases t with
  | none => rfl
  | ctrl | data | ext => exact codeIn_rowIn (tableCodes_permute h (by decide)) (by decide) c

/-- Two rows of a table with one type code are one row. -/
theorem typeCode_inj {p : Params} (h : p.codes.wf = true) {t : Machine.Table} {a b : BitVec 5}
    (e : Machine.typeCode p t a = Machine.typeCode p t b) : a = b := by
  rw [← codeRow_typeCode h t a, e, codeRow_typeCode h]

/-- Every row but the catch-all's has a type code below LAST. -/
theorem typeCode_lt {p : Params} (h : p.codes.wf = true) {t : Machine.Table} (ht : t ≠ .none) {k : BitVec 5}
    (hk : k.toNat < Machine.lastIndex t) : (Machine.typeCode p t k).toNat < Machine.lastIndex t :=
  (codeIn_lt_iff (tableCodes_permute h ht) k).2 hk

/-- With the default codes a row's type code is the row. -/
theorem typeCode_default {p : Params} (h : p.codes = Machine.defaultCodes) (t : Machine.Table) (k : BitVec 5) :
    Machine.typeCode p t k = k := by
  obtain ⟨h1, h2, h3⟩ := codeIn_default k
  cases t <;> simp only [Machine.typeCode, Machine.tableCodes, h, h1, h2, h3]
  rfl

/-! ## Headers -/

@[simp] theorem withType_toNat (h : Half) (t : BitVec 5) :
    (withType h t).toNat = t.toNat + h.toNat / 2 ^ 5 * 2 ^ 5 := by
  have h1 := t.isLt; have h2 := h.isLt
  rw [withType, BitVec.toNat_append, Nat.shiftLeft_eq, Nat.mul_comm, ← Nat.two_pow_add_eq_or_of_lt h1, half_field]
  omega

theorem withType_typ (h : Half) (t : BitVec 5) : (withType h t).extractLsb' 0 5 = t := by
  apply BitVec.eq_of_toNat_eq; rw [half_field, withType_toNat]; have := t.isLt; omega

theorem withType_self (h : Half) : withType h (h.extractLsb' 0 5) = h := by
  apply BitVec.eq_of_toNat_eq; rw [withType_toNat, half_field]; omega

theorem withType_withType (h : Half) (a b : BitVec 5) : withType (withType h a) b = withType h b := by
  apply BitVec.eq_of_toNat_eq
  rw [withType_toNat, withType_toNat, withType_toNat]; have := a.isLt; omega

/-- Every field above the type is kept. -/
theorem withType_field (h : Half) (t : BitVec 5) {lo : Nat} (hlo : 5 ≤ lo) (width : Nat) :
    (withType h t).extractLsb' lo width = h.extractLsb' lo width := by
  obtain ⟨d, rfl⟩ := Nat.exists_eq_add_of_le hlo
  apply BitVec.eq_of_toNat_eq
  rw [half_field, half_field, withType_toNat, Nat.pow_add, ← Nat.div_div_eq_div_mul, ← Nat.div_div_eq_div_mul]
  have := t.isLt
  congr 2; omega

theorem objectCount_withType (h : Half) (t : BitVec 5) : objectCount (withType h t) = objectCount h := by
  rw [objectCount, objectCount, withType_field h t (by decide)]

theorem codesOfHeader_withType (c : TypeCodes) (h : Half) (t : BitVec 5) :
    codesOfHeader c (withType h t) = codesOfHeader c h := by
  rw [codesOfHeader, codesOfHeader, withType_field h t (by decide), objectCount_withType]

theorem codesOfHeader_permute {c : TypeCodes} (h : c.wf = true) (hd : Half) :
    ∃ n ≤ 32, codesPermute n (codesOfHeader c hd) = true := by
  obtain ⟨h1, h2, h3⟩ := codes_wf h
  unfold codesOfHeader
  split
  · exact ⟨16, by decide, h3⟩
  · split
    · exact ⟨23, by decide, h1⟩
    · exact ⟨16, by decide, h2⟩

theorem toTableCode_toWireCode {c : TypeCodes} (h : c.wf = true) (hd : Half) :
    toTableCode c (toWireCode c hd) = hd := by
  obtain ⟨n, -, hp⟩ := codesOfHeader_permute h hd
  rw [toTableCode, toWireCode, codesOfHeader_withType, withType_typ, rowIn_codeIn hp, withType_withType, withType_self]

theorem toWireCode_toTableCode {c : TypeCodes} (h : c.wf = true) (hd : Half) :
    toWireCode c (toTableCode c hd) = hd := by
  obtain ⟨n, hn, hp⟩ := codesOfHeader_permute h hd
  rw [toTableCode, toWireCode, codesOfHeader_withType, withType_typ, codeIn_rowIn hp hn, withType_withType,
    withType_self]

/-! ## Byte strings -/

theorem mapHeader_mapHeader (f g : Half → Half) (bs : List Byte) :
    mapHeader f (mapHeader g bs) = mapHeader (fun h => f (g h)) bs := by
  match bs with
  | lo :: hi :: rest => simp only [mapHeader, le16, List.cons_append, List.nil_append, ofLe16_le16]
  | [] => rfl
  | [_] => rfl

theorem mapHeader_id {f : Half → Half} (h : ∀ hd, f hd = hd) (bs : List Byte) : mapHeader f bs = bs := by
  match bs with
  | lo :: hi :: rest => simp only [mapHeader, h, le16_ofLe16, List.cons_append, List.nil_append]
  | [] => rfl
  | [_] => rfl

/-- A header put in front of a byte string, translated. -/
theorem mapHeader_le16 (f : Half → Half) (h : Half) (rest : List Byte) :
    mapHeader f (le16 h ++ rest) = le16 (f h) ++ rest := by
  simp only [mapHeader, le16, List.cons_append, List.nil_append, ofLe16_le16]

/-- What follows a byte string of two bytes or more plays no part in the translation of its header. -/
theorem mapHeader_append (f : Half → Half) (bs rest : List Byte) (h : 2 ≤ bs.length) :
    mapHeader f (bs ++ rest) = mapHeader f bs ++ rest := by
  match bs, h with
  | lo :: hi :: bs, _ => simp [mapHeader]

/-- Reading, under the codes c, the bytes written under them. -/
theorem decodeAt_wireBytes {c : TypeCodes} (h : c.wf = true) (fmt : Format) (bs : List Byte) :
    decodeAt c fmt (wireBytes c fmt bs) = decode fmt bs := by
  cases fmt <;> simp only [decodeAt, wireBytes, mapHeader_mapHeader, mapHeader_id (toTableCode_toWireCode h)]

end Sys2Proof
end

