-- ==== Sys2Proof/Laws/Decode.lean ====
section
/-! SUPPORT. The decoder read backwards: what a byte string that decodes begins with. -/

namespace Sys2Proof

theorem typ_of_toNat {typ : BitVec 5} {k : Nat} (h : typ.toNat = k) : typ = BitVec.ofNat 5 k := by
  rw [← h, BitVec.ofNat_toNat, BitVec.setWidth_eq]

theorem ctrlInstr_reads (typ : BitVec 5) (f : RxFields) :
    encode (ctrlInstr typ f) = ctrlBytes typ f ∧ (ctrlInstr typ f).wf = true ∧ (ctrlInstr typ f).format = .rx := by
  unfold ctrlInstr
  split <;> first
    | (rename_i h; rw [typ_of_toNat h]; exact ⟨rfl, rfl, rfl⟩)
    | (refine ⟨rfl, decide_eq_true ?_, rfl⟩; simp only [imp_false] at *; omega)

theorem dataInstr_reads (typ : BitVec 5) (f : RxFields) (os : List Obj) (hd : dataObjs os = true) :
    encode (dataInstr typ f os) = dataBytes typ f os ∧ (dataInstr typ f os).wf = true ∧
    (dataInstr typ f os).format = .rx := by
  unfold dataInstr
  split <;> first
    | (rename_i h; rw [typ_of_toNat h]; exact ⟨rfl, hd, rfl⟩)
    | (refine ⟨rfl, Bool.and_eq_true_iff.2 ⟨decide_eq_true ?_, hd⟩, rfl⟩; simp only [imp_false] at *; omega)

theorem extInstr_reads (typ : BitVec 5) (f : RxFields) (os : List Obj) (hd : extObjs os = true) :
    encode (extInstr typ f os) = extBytes typ f os ∧ (extInstr typ f os).wf = true ∧
    (extInstr typ f os).format = .rx := by
  unfold extInstr
  split <;> first
    | (rename_i h; rw [typ_of_toNat h]; exact ⟨rfl, hd, rfl⟩)
    | (refine ⟨rfl, Bool.and_eq_true_iff.2 ⟨decide_eq_true ?_, hd⟩, rfl⟩; simp only [imp_false] at *; omega)

/-- The received message a header and as many objects as it announces make. -/
theorem rxInstr_reads (h : Half) (os : List Obj) (hc : os.length = objectCount h) :
    encode (rxInstr h os) = le16 h ++ objsBytes os ∧ (rxInstr h os).wf = true ∧ (rxInstr h os).format = .rx := by
  have hh := rxHeader_of h
  have hlt := Machine.objectCount_lt h
  have hcnt : BitVec.ofNat 3 os.length = h.extractLsb' 12 3 :=
    BitVec.eq_of_toNat_eq (by rw [BitVec.toNat_ofNat, hc]; exact Nat.mod_eq_of_lt hlt)
  unfold rxInstr
  split
  · rename_i he
    have := extInstr_reads (h.extractLsb' 0 5) (rxFieldsOf h) os (decide_eq_true (by omega))
    refine ⟨this.1.trans ?_, this.2⟩
    rw [extBytes, hcnt, ← he, hh]
  · rename_i he
    have he : h.extractLsb' 15 1 = 0 := by
      have := (h.extractLsb' 15 1).isLt
      have h1 : (h.extractLsb' 15 1).toNat ≠ 1 := fun h1 => he (BitVec.eq_of_toNat_eq h1)
      exact BitVec.eq_of_toNat_eq (show _ = 0 by omega)
    split
    · rename_i h0
      have := ctrlInstr_reads (h.extractLsb' 0 5) (rxFieldsOf h)
      have hn : os = [] := List.length_eq_zero_iff.1 (hc.trans h0)
      refine ⟨this.1.trans ?_, this.2⟩
      subst hn
      rw [ctrlBytes, objsBytes, List.append_nil, ← he, show (0 : BitVec 3) = h.extractLsb' 12 3 from hcnt, hh]
    · rename_i h0
      have := dataInstr_reads (h.extractLsb' 0 5) (rxFieldsOf h) os (by simp [dataObjs]; omega)
      refine ⟨this.1.trans ?_, this.2⟩
      rw [dataBytes, hcnt, ← he, hh]

theorem readFrame_some {bs : List Byte} {k : Half → List Obj → Decoded} {i : Instr}
    (h : readFrame bs k = .instr i) :
    ∃ hd os rest, os.length = objectCount hd ∧ bs = le16 hd ++ objsBytes os ++ rest ∧ k hd os = .instr i := by
  match bs, h with
  | lo :: hi :: bs, h =>
    simp only [readFrame, readU16] at h
    split at h
    · rename_i os rest ht
      obtain ⟨h1, h2⟩ := takeObjs_some ht
      exact ⟨_, os, rest, h1, by rw [le16_ofLe16, h2]; simp, h⟩
    · simp at h
  | [], h | [_], h => simp [readFrame, readU16] at h

theorem readU8_some {bs : List Byte} {k : Byte → List Byte → Decoded} {i : Instr} (h : readU8 bs k = .instr i) :
    ∃ b rest, bs = b :: rest ∧ k b rest = .instr i := by
  cases bs with
  | nil => simp [readU8] at h
  | cons b rest => exact ⟨b, rest, rfl, h⟩

theorem readU16_some {bs : List Byte} {k : Half → List Byte → Decoded} {i : Instr} (h : readU16 bs k = .instr i) :
    ∃ v rest, bs = le16 v ++ rest ∧ k v rest = .instr i := by
  match bs, h with
  | lo :: hi :: rest, h => exact ⟨_, rest, by rw [le16_ofLe16]; rfl, h⟩
  | [], h | [_], h => simp [readU16] at h

theorem op_of_toNat {op : Byte} {k : Nat} (h : op.toNat = k) : op = BitVec.ofNat 8 k := by
  rw [← h, BitVec.ofNat_toNat, BitVec.setWidth_eq]

theorem decodeCmd_some {op : Byte} {bs : List Byte} {i : Instr} (h : decodeCmd op bs = .instr i) :
    i.wf = true ∧ i.format = .cmd ∧ ∃ rest, op :: bs = encode i ++ rest := by
  unfold decodeCmd at h
  split at h
  all_goals first
    | (rename_i ho; obtain rfl := Decoded.instr.inj h; rw [op_of_toNat ho]; exact ⟨rfl, rfl, bs, rfl⟩)
    | (rename_i ho; obtain ⟨a, r, hb, h1⟩ := readU8_some h; obtain rfl := Decoded.instr.inj h1
       rw [op_of_toNat ho, hb]; exact ⟨rfl, rfl, r, rfl⟩)
    | (rename_i ho; obtain ⟨hd, os, r, hl, hb, h1⟩ := readFrame_some h; obtain rfl := Decoded.instr.inj h1
       rw [op_of_toNat ho, hb]; exact ⟨beq_iff_eq.2 hl, rfl, r, by simp [encode]⟩)
    | (rename_i ho; obtain ⟨a, r, hb, h1⟩ := readU16_some h; obtain ⟨b, r2, hb2, h2⟩ := readU16_some h1
       obtain rfl := Decoded.instr.inj h2; rw [op_of_toNat ho, hb, hb2]; exact ⟨rfl, rfl, r2, by simp [encode]⟩)
    | (rename_i ho; obtain ⟨a, r, hb, h1⟩ := readU8_some h; obtain ⟨b, r2, hb2, h2⟩ := readU16_some h1
       obtain ⟨c, r3, hb3, h3⟩ := readU16_some h2
       obtain rfl := Decoded.instr.inj h3; rw [op_of_toNat ho, hb, hb2, hb3]
       exact ⟨rfl, rfl, r3, by simp [encode]⟩)
    | (rename_i ho; obtain ⟨a, r, hb, h1⟩ := readU16_some h; obtain ⟨b, r2, hb2, h2⟩ := readU8_some h1
       obtain ⟨c, r3, hb3, h3⟩ := readU8_some h2
       obtain rfl := Decoded.instr.inj h3; rw [op_of_toNat ho, hb, hb2, hb3]
       exact ⟨rfl, rfl, r3, by simp [encode]⟩)
    | (rename_i ho; obtain ⟨a, r, hb, h1⟩ := readU16_some h; obtain ⟨b, r2, hb2, h2⟩ := readU8_some h1
       obtain rfl := Decoded.instr.inj h2; rw [op_of_toNat ho, hb, hb2]; exact ⟨rfl, rfl, r2, by simp [encode]⟩)
    | skip
  obtain rfl := Decoded.instr.inj h
  refine ⟨?_, rfl, bs, rfl⟩
  simp only [Instr.wf, opListed, Bool.not_eq_true', Bool.or_eq_false_iff, Bool.and_eq_false_iff,
    decide_eq_false_iff_not]
  simp only [imp_false] at *
  omega

/-- Masking the id out of a header leaves the other bits where they are. -/
theorem and_idMask (h : Half) : h &&& 0xF1FF = h.extractLsb' 12 4 ++ (0 : BitVec 3) ++ h.extractLsb' 0 9 := by
  apply BitVec.eq_of_getLsbD_eq
  intro i hi
  rw [BitVec.getLsbD_append, BitVec.getLsbD_append, BitVec.getLsbD_extractLsb', BitVec.getLsbD_extractLsb',
    BitVec.getLsbD_and]
  interval_cases i <;> simp

/-- A header split into its id and the rest. -/
theorem idMask_split (h : Half) : h.toNat = (h &&& 0xF1FF).toNat + (h.extractLsb' 9 3).toNat * 2 ^ 9 := by
  rw [and_idMask, BitVec.toNat_append, BitVec.toNat_append, Nat.shiftLeft_eq, Nat.shiftLeft_eq,
    Nat.mul_comm _ (2 ^ 3), ← Nat.two_pow_add_eq_or_of_lt (BitVec.isLt _),
    Nat.mul_comm _ (2 ^ 9), ← Nat.two_pow_add_eq_or_of_lt (BitVec.isLt _), half_field, half_field, half_field]
  have := h.isLt
  simp only [BitVec.ofNat_eq_ofNat, BitVec.toNat_zero]; omega

theorem decodeTx_some {h : Half} {i : Instr} (hd : decodeTx h = .instr i) :
    i.wf = true ∧ i.format = .tx ∧ encode i = le16 h := by
  unfold decodeTx at hd
  dsimp only at hd
  split_ifs at hd with h1 h1 h1 h1 h1 h1 h1 h1
  all_goals first
    | (obtain rfl := Decoded.instr.inj hd
       have := idMask_split h
       refine ⟨rfl, rfl, congrArg le16 (BitVec.eq_of_toNat_eq ?_)⟩
       rw [genHeader_toNat, this, h1]; simp; try omega)

end Sys2Proof
end

