-- ==== Sys2Proof/Laws/Framer.lean ====
section
/-! SUPPORT. What the framer's shared operations can do, said once: a poll behind its gate, a stable sample and its
outcomes, a frame's transmission, and what no framer operation touches. -/

namespace Sys2Proof.Machine

open Sys2Proof.Config

/-! ## The gate and the two arms (spec/40_framer.md R130, R132) -/

theorem State.frPoll_notReady {s : State} (h : s.fr.ready = false) : s.frPoll = failPoll .notInitialised s := by
  unfold State.frPoll; rw [h]; rfl

theorem State.frPoll_unattached {s : State} (h : s.fr.ready = true) (ha : s.fr.attach = .unattached) :
    s.frPoll = s.pollUnattached := by
  unfold State.frPoll; rw [h, ha]; rfl

theorem State.frPoll_attached {s : State} (h : s.fr.ready = true) (ha : s.fr.attach = .attached) :
    s.frPoll = s.pollAttached := by
  unfold State.frPoll; rw [h, ha]; rfl

theorem State.frTxFrame_ready {s : State} (h : s.fr.ready = true) (hd : Half) (objs : List Obj) :
    s.frTxFrame hd objs = s.attempt (.txWrite (txBytes s.params hd objs)) failSt fun _ s => (.ok, s) := by
  unfold State.frTxFrame; rw [h]; rfl

theorem State.frTxFrame_notReady {s : State} (h : s.fr.ready = false) (hd : Half) (objs : List Obj) :
    s.frTxFrame hd objs = (.notInitialised, s) := by
  unfold State.frTxFrame; rw [h]; rfl

theorem State.frTxHardReset_ready {s : State} (h : s.fr.ready = true) :
    s.frTxHardReset = s.attempt .sendHardReset failSt fun _ s =>
      (s.delay s.params.tHardResetSettleMs).attempt .pdReset failSt fun _ s => (.ok, s) := by
  unfold State.frTxHardReset; rw [h]; rfl

theorem State.frTxHardReset_notReady {s : State} (h : s.fr.ready = false) :
    s.frTxHardReset = (.notInitialised, s) := by
  unfold State.frTxHardReset; rw [h]; rfl

theorem State.frSetVbusSense_ready {s : State} (h : s.fr.ready = true) (en : Bool) :
    s.frSetVbusSense en = (.ok, { s with fr := { s.fr with vbusSenseEn := en } }) := by
  unfold State.frSetVbusSense; rw [h]; rfl

theorem State.frSetVbusSense_notReady {s : State} (h : s.fr.ready = false) (en : Bool) :
    s.frSetVbusSense en = (.notInitialised, s) := by
  unfold State.frSetVbusSense; rw [h]; rfl

/-! ## A frame written (R145) -/

/-- One write, and it is recorded whether or not it succeeds. -/
theorem State.frTxFrame_cases (s : State) (hd : Half) (objs : List Obj) :
    (s.fr.ready = false ∧ s.frTxFrame hd objs = (.notInitialised, s)) ∨
    (s.fr.ready = true ∧ s.succeeds 0 = true ∧
      s.frTxFrame hd objs = (.ok, s.after [.txWrite (txBytes s.params hd objs)])) ∨
    (s.fr.ready = true ∧ s.succeeds 0 = false ∧
      s.frTxFrame hd objs = (.writeError, s.after [.txWrite (txBytes s.params hd objs)])) := by
  cases h : s.fr.ready with
  | false => exact .inl ⟨rfl, State.frTxFrame_notReady h hd objs⟩
  | true =>
    rw [State.frTxFrame_ready h]
    cases h0 : s.succeeds 0 with
    | true => exact .inr (.inl ⟨rfl, rfl, State.attempt_ok h0⟩)
    | false =>
      obtain ⟨e, he⟩ := State.not_succeeds h0
      exact .inr (.inr ⟨rfl, rfl, State.attempt_fail he⟩)

/-! ## A stable sample (R135) -/

@[simp] theorem State.params_issue (s : State) (c : XCall) : (s.issue c).2.params = s.params := rfl

/-- The calls of n resamples, the next one first. -/
theorem sampleCalls_eq (p : Params) (pin : Pin) (n : Nat) :
    sampleCalls p pin n = .sampleCc pin :: (List.replicate n [.delayMs p.tCcSampleMs, .sampleCc pin]).flatten := by
  induction n with
  | zero => rfl
  | succ n ih => rw [sampleCalls, ih, List.replicate_succ', List.flatten_append]; simp

/-- What the environment answers after a pin's n + 1 samples. -/
theorem Env.answerAt_sampleCalls (s : State) (p : Params) (pin : Pin) (n k : Nat) :
    (s.after (sampleCalls p pin n)).env.answerAt k = s.env.answerAt (n + 1 + k) := by
  induction n generalizing k with
  | zero => rw [Nat.zero_add, Nat.add_comm]; exact Env.answerAt_issue s (.sampleCc pin) k
  | succ n ih =>
    rw [sampleCalls, State.after_append]
    refine (Env.answerAt_issue (State.delay _ _) (.sampleCc pin) k).trans ?_
    rw [Env.answerAt_delay, ih]; congr 1; omega

/-- One more resample of a sequence that starts with it. -/
theorem State.after_resample (s : State) (pin : Pin) (n d : Nat) :
    s.after (List.replicate (n + 1) [XCall.delayMs d, .sampleCc pin]).flatten
      = ((s.delay d).issue (.sampleCc pin)).2.after (List.replicate n [XCall.delayMs d, .sampleCc pin]).flatten := by
  rw [List.replicate_succ]; rfl

/-- n resamples that all agree. -/
theorem resample_ok (pin : Pin) (l : LineLevel) (n : Nat) (s : State)
    (hs : ∀ k < n, s.succeeds k = true) (hl : ∀ k < n, (s.env.answerAt k).level = l) :
    resample pin l n s
      = ⟨.ok, l, s.after (List.replicate n [XCall.delayMs s.params.tCcSampleMs, .sampleCc pin]).flatten⟩ := by
  induction n generalizing s with
  | zero => rfl
  | succ n ih =>
    have h0 : (s.delay s.params.tCcSampleMs).succeeds 0 = true := hs 0 (by omega)
    rw [resample, State.attempt_ok h0, State.issue_fst_level, Env.answerAt_delay, if_pos (hl 0 (by omega)),
      ih _ (fun k hk => by rw [State.succeeds_issue]; exact hs (k + 1) (by omega))
        (fun k hk => by rw [Env.answerAt_issue]; exact hl (k + 1) (by omega)), State.after_resample]
    rfl

/-- The first resample that disagrees stops the check. -/
theorem resample_busy (pin : Pin) (l : LineLevel) (n j : Nat) (s : State) (hj : j < n)
    (hs : ∀ k ≤ j, s.succeeds k = true) (hl : ∀ k < j, (s.env.answerAt k).level = l)
    (hb : (s.env.answerAt j).level ≠ l) :
    resample pin l n s = ⟨.busy, l,
      s.after (List.replicate (j + 1) [XCall.delayMs s.params.tCcSampleMs, .sampleCc pin]).flatten⟩ := by
  induction n generalizing s j with
  | zero => omega
  | succ n ih =>
    have h0 : (s.delay s.params.tCcSampleMs).succeeds 0 = true := hs 0 (by omega)
    rw [resample, State.attempt_ok h0, State.issue_fst_level, Env.answerAt_delay, State.after_resample]
    cases j with
    | zero => rw [if_neg hb]; rfl
    | succ j =>
      rw [if_pos (hl 0 (by omega)), ih j _ (by omega)
        (fun k hk => by rw [State.succeeds_issue]; exact hs (k + 1) (by omega))
        (fun k hk => by rw [Env.answerAt_issue]; exact hl (k + 1) (by omega))
        (by rw [Env.answerAt_issue]; exact hb)]
      rfl

/-- Six samples that agree: the level, after the six samples and the five delays. -/
theorem State.stableSample_ok {s : State} {pin : Pin} {l : LineLevel}
    (hs : ∀ k < 6, s.succeeds k = true) (hl : ∀ k < 6, (s.env.answerAt k).level = l) :
    s.stableSample pin = ⟨.ok, l, s.after (sampleCalls s.params pin 5)⟩ := by
  rw [State.stableSample, State.attempt_ok (hs 0 (by omega)), State.issue_fst_level, hl 0 (by omega),
    resample_ok pin l Config.nCcResample _
      (fun k hk => by rw [State.succeeds_issue]; exact hs (k + 1) (by simp [Config.nCcResample] at hk; omega))
      (fun k hk => by rw [Env.answerAt_issue]; exact hl (k + 1) (by simp [Config.nCcResample] at hk; omega)),
    sampleCalls_eq]
  rfl

/-- A disagreement at resample j: Busy, after j + 2 samples. -/
theorem State.stableSample_busy {s : State} {pin : Pin} {j : Nat} (hj : j < 5)
    (hs : ∀ k ≤ j + 1, s.succeeds k = true)
    (hl : ∀ k < j, (s.env.answerAt (k + 1)).level = (s.env.answerAt 0).level)
    (hb : (s.env.answerAt (j + 1)).level ≠ (s.env.answerAt 0).level) :
    s.stableSample pin = ⟨.busy, (s.env.answerAt 0).level, s.after (sampleCalls s.params pin (j + 1))⟩ := by
  rw [State.stableSample, State.attempt_ok (hs 0 (by omega)), State.issue_fst_level,
    resample_busy pin _ Config.nCcResample j _ (by simpa [Config.nCcResample] using hj)
      (fun k hk => by rw [State.succeeds_issue]; exact hs (k + 1) (by omega))
      (fun k hk => by rw [Env.answerAt_issue]; exact hl k hk)
      (by rw [Env.answerAt_issue]; exact hb),
    sampleCalls_eq]
  rfl

/-- The first resample that fails stops the check. -/
theorem resample_fail (pin : Pin) (l : LineLevel) (n j : Nat) (s : State) {e : TransportError} (hj : j < n)
    (hs : ∀ k < j, s.succeeds k = true) (hl : ∀ k < j, (s.env.answerAt k).level = l)
    (hb : (s.env.answerAt j).fail = some e) :
    resample pin l n s = ⟨errorStatus e, l,
      s.after (List.replicate (j + 1) [XCall.delayMs s.params.tCcSampleMs, .sampleCc pin]).flatten⟩ := by
  induction n generalizing s j with
  | zero => omega
  | succ n ih =>
    rw [resample, State.after_resample]
    cases j with
    | zero => rw [State.attempt_fail (s := s.delay s.params.tCcSampleMs) hb]; rfl
    | succ j =>
      have h0 : (s.delay s.params.tCcSampleMs).succeeds 0 = true := hs 0 (by omega)
      rw [State.attempt_ok h0, State.issue_fst_level, Env.answerAt_delay, if_pos (hl 0 (by omega)), ih j _ (by omega)
        (fun k hk => by rw [State.succeeds_issue]; exact hs (k + 1) (by omega))
        (fun k hk => by rw [Env.answerAt_issue]; exact hl (k + 1) (by omega))
        (by rw [Env.answerAt_issue]; exact hb)]
      rfl

/-- A failure at sample j, the first one or a resample: its error, after j + 1 samples. -/
theorem State.stableSample_fail {s : State} {pin : Pin} {j : Nat} {e : TransportError} (hj : j ≤ 5)
    (hs : ∀ k < j, s.succeeds k = true) (hl : ∀ k < j, (s.env.answerAt k).level = (s.env.answerAt 0).level)
    (hb : (s.env.answerAt j).fail = some e) :
    (s.stableSample pin).status = errorStatus e ∧
      (s.stableSample pin).state = s.after (sampleCalls s.params pin j) := by
  cases j with
  | zero => rw [State.stableSample, State.attempt_fail hb]; exact ⟨rfl, rfl⟩
  | succ j =>
    rw [State.stableSample, State.attempt_ok (hs 0 (by omega)), State.issue_fst_level,
      resample_fail pin _ Config.nCcResample j _ (by simp [Config.nCcResample]; omega)
        (fun k hk => by rw [State.succeeds_issue]; exact hs (k + 1) (by omega))
        (fun k hk => by rw [Env.answerAt_issue]; exact hl (k + 1) (by omega))
        (by rw [Env.answerAt_issue]; exact hb), sampleCalls_eq]
    exact ⟨rfl, rfl⟩

/-! ## What no framer operation touches (spec/10_state.md R21) -/

/-- t has the registers of PE and PL, the port, the parameters, the alert line and the log that s has, and a trace and a
count of primitives that go on from s's: the framer has run. -/
def frStep (s t : State) : Prop :=
  t.pe = s.pe ∧ t.pl = s.pl ∧ t.port = s.port ∧ t.params = s.params ∧ t.env.alert = s.env.alert ∧
    t.env.log = s.env.log ∧ s.env.oracle ≤ t.env.oracle ∧ ∃ cs, t.env.calls = s.env.calls ++ cs

theorem frStep_refl (s : State) : frStep s s :=
  ⟨rfl, rfl, rfl, rfl, rfl, rfl, Nat.le_refl _, [], (List.append_nil _).symm⟩

theorem frStep_trans {s t u : State} (h1 : frStep s t) (h2 : frStep t u) : frStep s u := by
  obtain ⟨a1, a2, a3, a4, a5, a6, a7, c, a8⟩ := h1
  obtain ⟨b1, b2, b3, b4, b5, b6, b7, d, b8⟩ := h2
  exact ⟨b1.trans a1, b2.trans a2, b3.trans a3, b4.trans a4, b5.trans a5, b6.trans a6, a7.trans b7,
    c ++ d, by rw [b8, a8, List.append_assoc]⟩

theorem frStep_issue (s : State) (c : XCall) : frStep s (s.issue c).2 :=
  ⟨rfl, rfl, rfl, rfl, rfl, rfl, Nat.le_succ _, _, State.issue_snd_env_calls s c⟩

theorem frStep_delay (s : State) (n : Nat) : frStep s (s.delay n) :=
  ⟨rfl, rfl, rfl, rfl, rfl, rfl, Nat.le_refl _, _, rfl⟩

/-- Registers of FR may change besides. -/
theorem frStep_fr {s t : State} (h : frStep s t) (f : Fr) : frStep s { t with fr := f } := h

/-- A primitive followed by "else return E": what holds of the end after one more primitive holds of the end. -/
theorem frStep_attempt {α : Type} (P : α → Prop) {s : State} {c : XCall} {f : Status → State → α}
    {k : XAnswer → State → α} (hf : ∀ st, P (f st (s.issue c).2)) (hk : P (k (s.issue c).1 (s.issue c).2)) :
    P (s.attempt c f k) := by
  rcases State.attempt_cases s c f k with ⟨-, h⟩ | ⟨e, -, h⟩ <;> rw [h]
  · exact hk
  · exact hf _

theorem frConfigure_step (s : State) : frStep s s.frConfigure.2 := by
  unfold State.frConfigure
  have h1 := frStep_issue s (.configure Config.nAutoRetry enabledInterrupts)
  have h2 := frStep_trans h1 (frStep_issue _ (.power .oscillator))
  have h3 := frStep_trans h2 (frStep_issue _ (.setVbusMask true))
  exact frStep_attempt (fun r : Status × State => frStep s r.2) (fun _ => h1)
    (frStep_attempt (fun r : Status × State => frStep s r.2) (fun _ => h2)
      (frStep_attempt (fun r : Status × State => frStep s r.2) (fun _ => h3) h3))

theorem frInit_step (s : State) : frStep s s.frInit.2 := by
  unfold State.frInit
  have h1 : frStep s (State.issue { s with fr := { s.fr with ready := false } } .swReset).2 := frStep_issue _ _
  have h2 := frStep_trans h1 (frStep_issue _ .readId)
  refine frStep_attempt (fun r : Status × State => frStep s r.2) (fun _ => h1) ?_
  refine frStep_attempt (fun r : Status × State => frStep s r.2) (fun _ => h2) ?_
  split
  · exact frStep_trans h2 (frConfigure_step _)
  · exact h2

/-- A framer step that keeps FR_READY and DEV_ID: what every part of a poll is. -/
def pollStep (s t : State) : Prop := frStep s t ∧ t.fr.ready = s.fr.ready ∧ t.fr.devId = s.fr.devId

theorem pollStep_refl (s : State) : pollStep s s := ⟨frStep_refl s, rfl, rfl⟩

theorem pollStep_trans {s t u : State} (h1 : pollStep s t) (h2 : pollStep t u) : pollStep s u :=
  ⟨frStep_trans h1.1 h2.1, h2.2.1.trans h1.2.1, h2.2.2.trans h1.2.2⟩

theorem pollStep_issue (s : State) (c : XCall) : pollStep s (s.issue c).2 := ⟨frStep_issue s c, rfl, rfl⟩

theorem pollStep_delay (s : State) (n : Nat) : pollStep s (s.delay n) := ⟨frStep_delay s n, rfl, rfl⟩

theorem resample_step (pin : Pin) (l : LineLevel) (n : Nat) (s : State) : pollStep s (resample pin l n s).state := by
  induction n generalizing s with
  | zero => exact pollStep_refl s
  | succ n ih =>
    have h := pollStep_trans (pollStep_delay s s.params.tCcSampleMs) (pollStep_issue _ (.sampleCc pin))
    refine frStep_attempt (fun r : Sampled => pollStep s r.state) (fun _ => h) ?_
    split
    · exact pollStep_trans h (ih _)
    · exact h

theorem stableSample_step (s : State) (pin : Pin) : pollStep s (s.stableSample pin).state :=
  frStep_attempt (fun r : Sampled => pollStep s r.state) (fun _ => pollStep_issue _ _)
    (pollStep_trans (pollStep_issue _ _) (resample_step ..))

theorem pollAttach_step (s : State) (l1 l2 : LineLevel) : pollStep s (s.pollAttach l1 l2).state := by
  refine frStep_attempt (fun r : Polled => pollStep s r.state) (fun _ => pollStep_issue _ _) ?_
  have h := pollStep_trans (pollStep_issue s .clearInterrupts) (pollStep_issue _ (.setCc (selectPin l1 l2)))
  exact frStep_attempt (fun r : Polled => pollStep s r.state) (fun _ => h) h

theorem pollSample_step (s : State) : pollStep s s.pollSample.state := by
  have h1 := stableSample_step s .cc1
  have h2 := pollStep_trans h1 (stableSample_step _ .cc2)
  unfold State.pollSample
  simp only
  split
  · exact h1
  · split
    · exact h2
    · exact pollStep_trans h2 (pollAttach_step ..)

theorem pollUnattached_step (s : State) : pollStep s s.pollUnattached.state := by
  refine frStep_attempt (fun r : Polled => pollStep s r.state) (fun _ => pollStep_issue _ _) ?_
  have h1 := pollStep_issue s .readStatus
  split
  · have h2 := pollStep_trans h1 (pollStep_issue (State.mk { (s.issue .readStatus).2.fr with vbusLast := true }
      (s.issue .readStatus).2.pe (s.issue .readStatus).2.pl (s.issue .readStatus).2.env (s.issue .readStatus).2.port
      (s.issue .readStatus).2.params) (.power .measure))
    exact frStep_attempt (fun r : Polled => pollStep s r.state) (fun _ => h2) (pollStep_trans h2 (pollSample_step _))
  · exact h1

theorem pollDetach_step (s : State) : pollStep s s.pollDetach.state := by
  refine frStep_attempt (fun r : Polled => pollStep s r.state) (fun _ => pollStep_issue _ _) ?_
  have h := pollStep_trans (pollStep_issue s .teardown) (pollStep_issue _ (.power .oscillator))
  exact frStep_attempt (fun r : Polled => pollStep s r.state) (fun _ => h) h

theorem pollReceive_step (s : State) (e : Bool) (ev : FrEvents) : pollStep s (s.pollReceive e ev).state := by
  unfold State.pollReceive
  split
  · exact pollStep_refl s
  · have h1 := pollStep_issue s (.rxRead 3)
    refine frStep_attempt (fun r : Polled => pollStep s r.state) (fun _ => pollStep_trans h1 (pollStep_issue _ _)) ?_
    have h2 (n : Nat) := pollStep_trans h1 (pollStep_issue _ (.rxRead n))
    exact frStep_attempt (fun r : Polled => pollStep s r.state)
      (fun _ => pollStep_trans (h2 _) (pollStep_issue _ _)) (h2 _)

theorem pollLatched_step (s : State) (x : XStatus) : pollStep s (s.pollLatched x).state := by
  unfold State.pollLatched
  split
  · exact frStep_attempt (fun r : Polled => pollStep s r.state) (fun _ => pollStep_issue _ _) (pollStep_issue _ _)
  · split
    · exact frStep_attempt (fun r : Polled => pollStep s r.state) (fun _ => pollStep_issue _ _)
        (pollStep_trans (pollStep_issue _ _) (pollReceive_step ..))
    · exact pollReceive_step ..

theorem pollAttached_step (s : State) : pollStep s s.pollAttached.state := by
  refine frStep_attempt (fun r : Polled => pollStep s r.state) (fun _ => pollStep_issue _ _) ?_
  have h1 := pollStep_issue s .readStatus
  simp only
  split
  · exact pollStep_trans h1 (pollDetach_step _)
  · exact pollStep_trans h1 (pollLatched_step ..)

theorem frPoll_keeps (s : State) : pollStep s s.frPoll.state := by
  cases h : s.fr.ready with
  | false => rw [State.frPoll_notReady h]; exact pollStep_refl s
  | true =>
    cases ha : s.fr.attach with
    | unattached => rw [State.frPoll_unattached h ha]; exact pollUnattached_step s
    | attached => rw [State.frPoll_attached h ha]; exact pollAttached_step s

theorem frPoll_step (s : State) : frStep s s.frPoll.state := (frPoll_keeps s).1

/-- Only a framer that is ready answers a poll with anything but NotInitialised. -/
theorem frPoll_ready {s : State} (h : s.frPoll.status ≠ .notInitialised) : s.frPoll.state.fr.ready = true := by
  rw [(frPoll_keeps s).2.1]
  cases hr : s.fr.ready with
  | true => rfl
  | false => rw [State.frPoll_notReady hr] at h; exact absurd rfl h

/-- "The event set is empty whenever the status is not OK" (40_framer.md R132), as a property of an outcome. -/
def Polled.silentUnlessOk (r : Polled) : Prop := r.status ≠ .ok → r.events = FrEvents.empty

theorem pollReceive_silent (s : State) (e : Bool) (ev : FrEvents) : (s.pollReceive e ev).silentUnlessOk := by
  unfold State.pollReceive
  split
  · exact fun h => absurd rfl h
  · exact frStep_attempt Polled.silentUnlessOk (fun _ _ => rfl)
      (frStep_attempt Polled.silentUnlessOk (fun _ _ => rfl) fun h => absurd rfl h)

theorem frPoll_silent (s : State) : s.frPoll.silentUnlessOk := by
  cases h : s.fr.ready with
  | false => rw [State.frPoll_notReady h]; exact fun _ => rfl
  | true =>
    cases ha : s.fr.attach with
    | unattached =>
      rw [State.frPoll_unattached h ha]
      refine frStep_attempt Polled.silentUnlessOk (fun _ _ => rfl) ?_
      split
      · refine frStep_attempt Polled.silentUnlessOk (fun _ _ => rfl) ?_
        unfold State.pollSample
        simp only
        split
        · exact fun _ => rfl
        · split
          · exact fun _ => rfl
          · exact frStep_attempt Polled.silentUnlessOk (fun _ _ => rfl)
              (frStep_attempt Polled.silentUnlessOk (fun _ _ => rfl) fun h => absurd rfl h)
      · exact fun _ => rfl
    | attached =>
      rw [State.frPoll_attached h ha]
      refine frStep_attempt Polled.silentUnlessOk (fun _ _ => rfl) ?_
      simp only
      split
      · exact frStep_attempt Polled.silentUnlessOk (fun _ _ => rfl)
          (frStep_attempt Polled.silentUnlessOk (fun _ _ => rfl) fun h => absurd rfl h)
      · unfold State.pollLatched
        split
        · exact frStep_attempt Polled.silentUnlessOk (fun _ _ => rfl) fun h => absurd rfl h
        · split
          · exact frStep_attempt Polled.silentUnlessOk (fun _ _ => rfl) (pollReceive_silent _ _ _)
          · exact pollReceive_silent _ _ _

theorem frTxFrame_step (s : State) (hd : Half) (objs : List Obj) : frStep s (s.frTxFrame hd objs).2 := by
  rcases s.frTxFrame_cases hd objs with ⟨-, h⟩ | ⟨-, -, h⟩ | ⟨-, -, h⟩ <;> rw [h]
  · exact frStep_refl s
  · exact frStep_issue _ _
  · exact frStep_issue _ _

theorem frTxHardReset_step (s : State) : frStep s s.frTxHardReset.2 := by
  cases h : s.fr.ready with
  | false => rw [State.frTxHardReset_notReady h]; exact frStep_refl s
  | true =>
    rw [State.frTxHardReset_ready h]
    refine frStep_attempt (fun r : Status × State => frStep s r.2) (fun _ => frStep_issue _ _) ?_
    have h1 := frStep_trans (frStep_issue s .sendHardReset) (frStep_trans
      (frStep_delay _ s.params.tHardResetSettleMs) (frStep_issue _ .pdReset))
    exact frStep_attempt (fun r : Status × State => frStep s r.2) (fun _ => h1) h1

theorem frSetVbusSense_step (s : State) (en : Bool) : frStep s (s.frSetVbusSense en).2 := by
  unfold State.frSetVbusSense
  split <;> exact frStep_refl s

/-! ## The framer looks at no register of PE or PL and at no command -/

/-- s with the registers of PE and PL and the command port replaced. -/
def State.withUnits (s : State) (pe : Pe) (pl : Pl) (po : Port) : State := { s with pe := pe, pl := pl, port := po }

@[simp] theorem State.withUnits_fr (s : State) (pe : Pe) (pl : Pl) (po : Port) : (s.withUnits pe pl po).fr = s.fr := rfl
@[simp] theorem State.withUnits_pe (s : State) (pe : Pe) (pl : Pl) (po : Port) : (s.withUnits pe pl po).pe = pe := rfl
@[simp] theorem State.withUnits_pl (s : State) (pe : Pe) (pl : Pl) (po : Port) : (s.withUnits pe pl po).pl = pl := rfl
@[simp] theorem State.withUnits_env (s : State) (pe : Pe) (pl : Pl) (po : Port) : (s.withUnits pe pl po).env = s.env := rfl
@[simp] theorem State.withUnits_port (s : State) (pe : Pe) (pl : Pl) (po : Port) : (s.withUnits pe pl po).port = po := rfl
@[simp] theorem State.withUnits_params (s : State) (pe : Pe) (pl : Pl) (po : Port) : (s.withUnits pe pl po).params = s.params := rfl

/-- A poll's outcome with the registers of PE and PL and the command port replaced. -/
def Polled.withUnits (r : Polled) (pe : Pe) (pl : Pl) (po : Port) : Polled := { r with state := r.state.withUnits pe pl po }

/-- A sample's outcome with the registers of PE and PL and the command port replaced. -/
def Sampled.withUnits (r : Sampled) (pe : Pe) (pl : Pl) (po : Port) : Sampled := { r with state := r.state.withUnits pe pl po }

/-- An outcome with the registers of PE and PL and the command port replaced. -/
def pairWithUnits (pe : Pe) (pl : Pl) (po : Port) (r : Status × State) : Status × State := (r.1, r.2.withUnits pe pl po)

/-- A function applied after an attempt is applied in both branches. -/
theorem State.attempt_apply {α β : Type} (g : α → β) (s : State) (c : XCall) (f : Status → State → α)
    (k : XAnswer → State → α) :
    g (s.attempt c f k) = s.attempt c (fun st t => g (f st t)) (fun a t => g (k a t)) := by
  unfold State.attempt; split <;> rfl

/-- Two attempts that go on alike, the one with the registers of PE and PL and the command port replaced, are equal. -/
theorem State.attempt_withUnits {α : Type} (s : State) (pe : Pe) (pl : Pl) (po : Port) {c : XCall} {f f' : Status → State → α}
    {k k' : XAnswer → State → α} (hf : ∀ st t, f st (t.withUnits pe pl po) = f' st t)
    (hk : ∀ a t, k a (t.withUnits pe pl po) = k' a t) : (s.withUnits pe pl po).attempt c f k = s.attempt c f' k' := by
  have h : (s.withUnits pe pl po).issue c = ((s.issue c).1, (s.issue c).2.withUnits pe pl po) := rfl
  unfold State.attempt
  rw [h]
  cases (s.issue c).1.fail with
  | some e => exact hf _ _
  | none => exact hk _ _

theorem frConfigure_withUnits (s : State) (pe : Pe) (pl : Pl) (po : Port) :
    (s.withUnits pe pl po).frConfigure = pairWithUnits pe pl po s.frConfigure := by
  unfold State.frConfigure
  simp only [State.attempt_apply (pairWithUnits pe pl po)]
  refine State.attempt_withUnits s pe pl po (fun _ _ => rfl) fun _ t => ?_
  refine State.attempt_withUnits t pe pl po (fun _ _ => rfl) fun _ u => ?_
  exact State.attempt_withUnits u pe pl po (fun _ _ => rfl) fun _ _ => rfl

theorem frInit_withUnits (s : State) (pe : Pe) (pl : Pl) (po : Port) :
    (s.withUnits pe pl po).frInit = pairWithUnits pe pl po s.frInit := by
  unfold State.frInit
  rw [State.attempt_apply (pairWithUnits pe pl po)]
  refine State.attempt_withUnits (State.mk { s.fr with ready := false } s.pe s.pl s.env s.port s.params) pe pl po
    (fun _ _ => rfl) fun _ t => ?_
  rw [State.attempt_apply (pairWithUnits pe pl po)]
  refine State.attempt_withUnits t pe pl po (fun _ _ => rfl) fun a u => ?_
  rw [apply_ite (pairWithUnits pe pl po), ← frConfigure_withUnits]
  rfl

theorem resample_withUnits (pin : Pin) (l : LineLevel) (n : Nat) (s : State) (pe : Pe) (pl : Pl) (po : Port) :
    resample pin l n (s.withUnits pe pl po) = (resample pin l n s).withUnits pe pl po := by
  induction n generalizing s with
  | zero => rfl
  | succ n ih =>
    unfold resample
    rw [State.attempt_apply (Sampled.withUnits · pe pl po)]
    refine State.attempt_withUnits (s.delay s.params.tCcSampleMs) pe pl po (fun _ _ => rfl) fun a t => ?_
    rw [apply_ite (Sampled.withUnits · pe pl po), ← ih]
    rfl

theorem stableSample_withUnits (s : State) (pin : Pin) (pe : Pe) (pl : Pl) (po : Port) :
    (s.withUnits pe pl po).stableSample pin = (s.stableSample pin).withUnits pe pl po := by
  unfold State.stableSample
  rw [State.attempt_apply (Sampled.withUnits · pe pl po)]
  refine State.attempt_withUnits s pe pl po (fun _ _ => rfl) fun a t => ?_
  rw [← resample_withUnits]

theorem pollAttach_withUnits (s : State) (l1 l2 : LineLevel) (pe : Pe) (pl : Pl) (po : Port) :
    (s.withUnits pe pl po).pollAttach l1 l2 = (s.pollAttach l1 l2).withUnits pe pl po := by
  unfold State.pollAttach
  rw [State.attempt_apply (Polled.withUnits · pe pl po)]
  refine State.attempt_withUnits s pe pl po (fun _ _ => rfl) fun a t => ?_
  rw [State.attempt_apply (Polled.withUnits · pe pl po)]
  rfl

theorem pollSample_withUnits (s : State) (pe : Pe) (pl : Pl) (po : Port) :
    (s.withUnits pe pl po).pollSample = s.pollSample.withUnits pe pl po := by
  unfold State.pollSample
  simp only [stableSample_withUnits, Sampled.withUnits, pollAttach_withUnits,
    apply_ite (Polled.withUnits · pe pl po)]
  rfl

theorem pollUnattached_withUnits (s : State) (pe : Pe) (pl : Pl) (po : Port) :
    (s.withUnits pe pl po).pollUnattached = s.pollUnattached.withUnits pe pl po := by
  unfold State.pollUnattached
  rw [State.attempt_apply (Polled.withUnits · pe pl po)]
  refine State.attempt_withUnits s pe pl po (fun _ _ => rfl) fun a t => ?_
  rw [apply_ite (Polled.withUnits · pe pl po), State.attempt_apply (Polled.withUnits · pe pl po)]
  refine if_congr Iff.rfl ?_ rfl
  refine State.attempt_withUnits (State.mk { t.fr with vbusLast := true } t.pe t.pl t.env t.port t.params) pe pl po
    (fun _ _ => rfl) fun b u => ?_
  rw [← pollSample_withUnits]

theorem pollDetach_withUnits (s : State) (pe : Pe) (pl : Pl) (po : Port) :
    (s.withUnits pe pl po).pollDetach = s.pollDetach.withUnits pe pl po := by
  unfold State.pollDetach
  rw [State.attempt_apply (Polled.withUnits · pe pl po)]
  refine State.attempt_withUnits s pe pl po (fun _ _ => rfl) fun a t => ?_
  rw [State.attempt_apply (Polled.withUnits · pe pl po)]
  rfl

theorem pollReceive_withUnits (s : State) (e : Bool) (ev : FrEvents) (pe : Pe) (pl : Pl) (po : Port) :
    (s.withUnits pe pl po).pollReceive e ev = (s.pollReceive e ev).withUnits pe pl po := by
  unfold State.pollReceive
  rw [apply_ite (Polled.withUnits · pe pl po), State.attempt_apply (Polled.withUnits · pe pl po)]
  refine if_congr Iff.rfl rfl ?_
  refine State.attempt_withUnits s pe pl po (fun _ _ => rfl) fun a t => ?_
  rw [State.attempt_apply (Polled.withUnits · pe pl po)]
  rfl

theorem pollLatched_withUnits (s : State) (x : XStatus) (pe : Pe) (pl : Pl) (po : Port) :
    (s.withUnits pe pl po).pollLatched x = (s.pollLatched x).withUnits pe pl po := by
  unfold State.pollLatched
  rw [apply_ite (Polled.withUnits · pe pl po), apply_ite (Polled.withUnits · pe pl po),
    State.attempt_apply (Polled.withUnits · pe pl po), State.attempt_apply (Polled.withUnits · pe pl po)]
  refine if_congr Iff.rfl rfl (if_congr Iff.rfl ?_ (pollReceive_withUnits ..))
  refine State.attempt_withUnits s pe pl po (fun _ _ => rfl) fun a t => ?_
  rw [← pollReceive_withUnits]

theorem pollAttached_withUnits (s : State) (pe : Pe) (pl : Pl) (po : Port) :
    (s.withUnits pe pl po).pollAttached = s.pollAttached.withUnits pe pl po := by
  unfold State.pollAttached
  rw [State.attempt_apply (Polled.withUnits · pe pl po)]
  refine State.attempt_withUnits s pe pl po (fun _ _ => rfl) fun a t => ?_
  simp only [apply_ite (Polled.withUnits · pe pl po), ← pollDetach_withUnits, ← pollLatched_withUnits]
  rfl

/-- A poll goes the same way whatever PE, PL and the command port hold, and leaves it. -/
theorem frPoll_withUnits (s : State) (pe : Pe) (pl : Pl) (po : Port) :
    (s.withUnits pe pl po).frPoll = s.frPoll.withUnits pe pl po := by
  cases h : s.fr.ready with
  | false => rw [State.frPoll_notReady h, State.frPoll_notReady (s := s.withUnits pe pl po) h]; rfl
  | true =>
    cases ha : s.fr.attach with
    | unattached =>
      rw [State.frPoll_unattached h ha, State.frPoll_unattached (s := s.withUnits pe pl po) h ha,
        pollUnattached_withUnits]
    | attached =>
      rw [State.frPoll_attached h ha, State.frPoll_attached (s := s.withUnits pe pl po) h ha, pollAttached_withUnits]

theorem frTxFrame_withUnits (s : State) (hd : Half) (objs : List Obj) (pe : Pe) (pl : Pl) (po : Port) :
    (s.withUnits pe pl po).frTxFrame hd objs = pairWithUnits pe pl po (s.frTxFrame hd objs) := by
  unfold State.frTxFrame
  rw [apply_ite (pairWithUnits pe pl po), State.attempt_apply (pairWithUnits pe pl po)]
  exact if_congr Iff.rfl (State.attempt_withUnits s pe pl po (fun _ _ => rfl) fun _ _ => rfl) rfl

theorem frTxHardReset_withUnits (s : State) (pe : Pe) (pl : Pl) (po : Port) :
    (s.withUnits pe pl po).frTxHardReset = pairWithUnits pe pl po s.frTxHardReset := by
  unfold State.frTxHardReset
  rw [apply_ite (pairWithUnits pe pl po), State.attempt_apply (pairWithUnits pe pl po)]
  refine if_congr Iff.rfl (State.attempt_withUnits s pe pl po (fun _ _ => rfl) fun _ t => ?_) rfl
  rw [State.attempt_apply (pairWithUnits pe pl po)]
  exact State.attempt_withUnits (t.delay t.params.tHardResetSettleMs) pe pl po (fun _ _ => rfl) fun _ _ => rfl

/-! ## Bytes determine what they code (spec/30_encoding.md R112; spec/60_exceptions.md R320) -/

theorem FrEvents.byte_inj {a b : FrEvents} (h : a.byte = b.byte) : a = b := by
  obtain ⟨a1, a2, a3, a4⟩ := a
  obtain ⟨b1, b2, b3, b4⟩ := b
  revert a1 a2 a3 a4 b1 b2 b3 b4
  decide

theorem PeEvents.byte_inj {a b : PeEvents} (h : a.byte = b.byte) : a = b := by
  obtain ⟨a1, a2, a3, a4, a5⟩ := a
  obtain ⟨b1, b2, b3, b4, b5⟩ := b
  revert a1 a2 a3 a4 a5 b1 b2 b3 b4 b5
  decide

theorem Status.code_inj {a b : Status} (h : a.code = b.code) : a = b := by
  revert h
  cases a <;> cases b <;> decide

end Sys2Proof.Machine
end

