-- ==== Sys2Proof/Laws/Negotiation.lean ====
section
/-! SUPPORT. What the two passes of the evaluator answer, said once over any list (spec/43_negotiation.md R243, R244), and
the live list as a list. -/

namespace Sys2Proof.Machine

open Sys2Proof.Config

/-! ## The live list -/

theorem Pe.live_length (p : Pe) : p.live.length = p.pdoCount.toNat := by
  have h : p.pdoCount.toNat < 8 := p.pdoCount.isLt
  simp only [Pe.live, List.length_take, Objs7.toList_length]
  omega

/-- Entry k of the live list is register k. -/
theorem Pe.live_getD (p : Pe) {k : Nat} (h : k < p.pdoCount.toNat) : p.live.getD k 0 = p.srcPdo.get k := by
  rw [Objs7.get_eq_getD, Pe.live, List.getD_eq_getElem?_getD, List.getD_eq_getElem?_getD, List.getElem?_take, if_pos h]

/-! ## The first pass: the lowest index that brackets -/

theorem firstBracketing_none {v i n : Nat} {ws : List Obj} (h : firstBracketing v i n ws = none) :
    ∀ k < ws.length, brackets v i (pdoInfo (ws.getD k 0)) = false := by
  induction ws generalizing n with
  | nil => intro k hk; exact absurd hk (Nat.not_lt_zero k)
  | cons w ws ih =>
    rw [firstBracketing] at h
    split at h
    · cases h
    · intro k hk
      cases k with
      | zero => rw [List.getD_cons_zero]; exact Bool.eq_false_iff.2 ‹_›
      | succ k => exact ih h k (Nat.lt_of_succ_lt_succ hk)

/-- It answers an index whose entry brackets the target, and no lower one does. -/
theorem firstBracketing_some {v i n m : Nat} {ws : List Obj} (h : firstBracketing v i n ws = some m) :
    ∃ k, m = n + k ∧ k < ws.length ∧ brackets v i (pdoInfo (ws.getD k 0)) = true ∧
      ∀ j < k, brackets v i (pdoInfo (ws.getD j 0)) = false := by
  induction ws generalizing n with
  | nil => cases h
  | cons w ws ih =>
    rw [firstBracketing] at h
    split at h
    · cases h
      exact ⟨0, rfl, Nat.succ_pos _, by rwa [List.getD_cons_zero], fun j hj => absurd hj (Nat.not_lt_zero j)⟩
    · obtain ⟨k, rfl, h1, h2, h3⟩ := ih h
      refine ⟨k + 1, by omega, Nat.succ_lt_succ h1, h2, fun j hj => ?_⟩
      cases j with
      | zero => rw [List.getD_cons_zero]; exact Bool.eq_false_iff.2 ‹_›
      | succ j => exact h3 j (Nat.lt_of_succ_lt_succ hj)

/-! ## The second pass: the highest index within the limit -/

/-- It answers the index it was given, where no entry is within the limit, or the highest one that is. -/
theorem lastWithin_cases (row : PowerRow) (sel n : Nat) (ws : List Obj) :
    (lastWithin row sel n ws = sel ∧ ∀ k < ws.length, withinLimit row (pdoInfo (ws.getD k 0)) = false) ∨
    ∃ k, lastWithin row sel n ws = n + k ∧ k < ws.length ∧ withinLimit row (pdoInfo (ws.getD k 0)) = true ∧
      ∀ j, k < j → j < ws.length → withinLimit row (pdoInfo (ws.getD j 0)) = false := by
  induction ws generalizing sel n with
  | nil => exact .inl ⟨rfl, fun k hk => absurd hk (Nat.not_lt_zero k)⟩
  | cons w ws ih =>
    rw [lastWithin]
    rcases ih (if withinLimit row (pdoInfo w) then n else sel) (n + 1) with ⟨h1, h2⟩ | ⟨k, h1, h2, h3, h4⟩
    · by_cases hw : withinLimit row (pdoInfo w) = true
      · rw [if_pos hw] at h1 ⊢
        refine .inr ⟨0, h1, Nat.succ_pos _, by rwa [List.getD_cons_zero], fun j hj hl => ?_⟩
        cases j with
        | zero => omega
        | succ j => exact h2 j (Nat.lt_of_succ_lt_succ hl)
      · rw [if_neg hw] at h1 ⊢
        refine .inl ⟨h1, fun j hl => ?_⟩
        cases j with
        | zero => rw [List.getD_cons_zero]; exact Bool.eq_false_iff.2 hw
        | succ j => exact h2 j (Nat.lt_of_succ_lt_succ hl)
    · refine .inr ⟨k + 1, by rw [h1]; omega, Nat.succ_lt_succ h2, h3, fun j hj hl => ?_⟩
      cases j with
      | zero => omega
      | succ j => exact h4 j (Nat.lt_of_succ_lt_succ hj) (Nat.lt_of_succ_lt_succ hl)

/-- Where the live list is not empty the evaluator's index is one of its indices. -/
theorem Pe.evaluate_lt (pe : Pe) (p : Params) (v : Half) (i : Byte) (h : pe.pdoCount.toNat ≠ 0) :
    (pe.evaluate p v i).2 < pe.pdoCount.toNat := by
  have hl := pe.live_length
  unfold Pe.evaluate
  split
  · rename_i n hn
    split at hn
    · cases hn
    · obtain ⟨k, rfl, h1, -, -⟩ := firstBracketing_some hn
      simp only; omega
  · rcases lastWithin_cases (optionRow p pe.powerOption) 0 0 pe.live with ⟨h1, -⟩ | ⟨k, h1, h2, -, -⟩
    · simp only [h1]; omega
    · simp only [h1]; omega

/-- Where it is empty the evaluator answers that nothing qualifies, and index 0. -/
theorem Pe.evaluate_empty (pe : Pe) (p : Params) (v : Half) (i : Byte) (h : pe.pdoCount = 0) :
    pe.evaluate p v i = (false, 0) := by
  have hl : pe.live = [] := List.eq_nil_of_length_eq_zero (by rw [pe.live_length, h]; rfl)
  unfold Pe.evaluate
  rw [hl]
  split
  · rename_i hn
    split at hn <;> cases hn
  · rfl

end Sys2Proof.Machine
end

