-- ==== Sys2Proof/Laws/PerInstr.lean ====
section
/-! SUPPORT. The round trip of every instruction, one lemma a constructor: what a well-formed instruction encodes to
decodes to it. -/

namespace Sys2Proof

namespace Laws.RoundTrip

/-- Decoding the encoding of a well-formed instruction, in the instruction's own format, gives it back. -/
def Statement (i : Instr) : Prop := i.wf = true → decode i.format (encode i) = .instr i

theorem init (option : Byte) (ppsMv ppsMa : Half) : Statement (.init option ppsMv ppsMa) := fun _ => by
  simp [decode, decodeCmd, Instr.format, encode, readU8, readU16, le16, ofLe16_le16]

theorem tick : Statement (.tick) := fun _ => rfl

theorem isTrans : Statement (.isTrans) := fun _ => rfl

theorem getMv : Statement (.getMv) := fun _ => rfl

theorem getMa : Statement (.getMa) := fun _ => rfl

theorem getMw : Statement (.getMw) := fun _ => rfl

theorem getReady : Statement (.getReady) := fun _ => rfl

theorem reqPps (mv ma : Half) : Statement (.reqPps mv ma) := fun _ => by
  simp [decode, decodeCmd, Instr.format, encode, readU16, le16, ofLe16_le16]

theorem reqOpt (option : Byte) : Statement (.reqOpt option) := fun _ => rfl

theorem frInit : Statement (.frInit) := fun _ => rfl

theorem frPoll : Statement (.frPoll) := fun _ => rfl

theorem frSetVbusSense (en : Byte) : Statement (.frSetVbusSense en) := fun _ => rfl

theorem frReadCc : Statement (.frReadCc) := fun _ => rfl

theorem frReadVbus : Statement (.frReadVbus) := fun _ => rfl

theorem frReadId : Statement (.frReadId) := fun _ => rfl

theorem frTxFrame (header : Half) (objs : List Obj) : Statement (.frTxFrame header objs) := fun h => by
  have h := takeObjs_eq (eq_of_beq h)
  simp [decode, decodeCmd, Instr.format, encode, readFrame, readU16, le16, ofLe16_le16, h]

theorem frTxHardReset : Statement (.frTxHardReset) := fun _ => rfl

theorem frGetRx : Statement (.frGetRx) := fun _ => rfl

theorem peInit : Statement (.peInit) := fun _ => rfl

theorem peReset : Statement (.peReset) := fun _ => rfl

theorem peHandleMsg (header : Half) (objs : List Obj) : Statement (.peHandleMsg header objs) := fun h => by
  have h := takeObjs_eq (eq_of_beq h)
  simp [decode, decodeCmd, Instr.format, encode, readFrame, readU16, le16, ofLe16_le16, h]

theorem peRespond : Statement (.peRespond) := fun _ => rfl

theorem peEvaluate (v : Half) (i : Byte) : Statement (.peEvaluate v i) := fun _ => by
  simp [decode, decodeCmd, Instr.format, encode, readU8, readU16, le16, ofLe16_le16]

theorem peCreateGetSrcCap : Statement (.peCreateGetSrcCap) := fun _ => rfl

theorem peCreateGetPpsStatus : Statement (.peCreateGetPpsStatus) := fun _ => rfl

theorem peCreateRequest : Statement (.peCreateRequest) := fun _ => rfl

theorem peSetPowerOption (option : Byte) : Statement (.peSetPowerOption option) := fun _ => rfl

theorem peSelectPower (index : Byte) : Statement (.peSelectPower index) := fun _ => rfl

theorem peSetPps (v : Half) (i strict : Byte) : Statement (.peSetPps v i strict) := fun _ => by
  simp [decode, decodeCmd, Instr.format, encode, readU8, readU16, le16, ofLe16_le16]

theorem peGetPowerInfo (index : Byte) : Statement (.peGetPowerInfo index) := fun _ => rfl

theorem peGetSelected : Statement (.peGetSelected) := fun _ => rfl

theorem peGetPpsStatus : Statement (.peGetPpsStatus) := fun _ => rfl

theorem peGetTarget : Statement (.peGetTarget) := fun _ => rfl

theorem cmdReserved (op : Byte) : Statement (.cmdReserved op) := fun h => by
  revert op; decide

theorem rxCReserved0 (f : RxFields) : Statement (.rxCReserved0 f) := fun _ => decode_ctrlBytes 0 f

theorem rxGoodCrc (f : RxFields) : Statement (.rxGoodCrc f) := fun _ => decode_ctrlBytes 1 f

theorem rxGotoMin (f : RxFields) : Statement (.rxGotoMin f) := fun _ => decode_ctrlBytes 2 f

theorem rxAccept (f : RxFields) : Statement (.rxAccept f) := fun _ => decode_ctrlBytes 3 f

theorem rxReject (f : RxFields) : Statement (.rxReject f) := fun _ => decode_ctrlBytes 4 f

theorem rxPing (f : RxFields) : Statement (.rxPing f) := fun _ => decode_ctrlBytes 5 f

theorem rxPsRdy (f : RxFields) : Statement (.rxPsRdy f) := fun _ => decode_ctrlBytes 6 f

theorem rxGetSourceCap (f : RxFields) : Statement (.rxGetSourceCap f) := fun _ => decode_ctrlBytes 7 f

theorem rxGetSinkCap (f : RxFields) : Statement (.rxGetSinkCap f) := fun _ => decode_ctrlBytes 8 f

theorem rxDrSwap (f : RxFields) : Statement (.rxDrSwap f) := fun _ => decode_ctrlBytes 9 f

theorem rxPrSwap (f : RxFields) : Statement (.rxPrSwap f) := fun _ => decode_ctrlBytes 10 f

theorem rxVconnSwap (f : RxFields) : Statement (.rxVconnSwap f) := fun _ => decode_ctrlBytes 11 f

theorem rxWait (f : RxFields) : Statement (.rxWait f) := fun _ => decode_ctrlBytes 12 f

theorem rxSoftReset (f : RxFields) : Statement (.rxSoftReset f) := fun _ => decode_ctrlBytes 13 f

theorem rxDataReset (f : RxFields) : Statement (.rxDataReset f) := fun _ => decode_ctrlBytes 14 f

theorem rxDataResetComplete (f : RxFields) : Statement (.rxDataResetComplete f) := fun _ => decode_ctrlBytes 15 f

theorem rxNotSupported (f : RxFields) : Statement (.rxNotSupported f) := fun _ => decode_ctrlBytes 16 f

theorem rxGetSourceCapExtended (f : RxFields) : Statement (.rxGetSourceCapExtended f) := fun _ => decode_ctrlBytes 17 f

theorem rxGetStatus (f : RxFields) : Statement (.rxGetStatus f) := fun _ => decode_ctrlBytes 18 f

theorem rxFrSwap (f : RxFields) : Statement (.rxFrSwap f) := fun _ => decode_ctrlBytes 19 f

theorem rxGetPpsStatus (f : RxFields) : Statement (.rxGetPpsStatus f) := fun _ => decode_ctrlBytes 20 f

theorem rxGetCountryCodes (f : RxFields) : Statement (.rxGetCountryCodes f) := fun _ => decode_ctrlBytes 21 f

theorem rxGetSinkCapExtended (f : RxFields) : Statement (.rxGetSinkCapExtended f) := fun _ => decode_ctrlBytes 22 f

theorem rxCOther (typ : BitVec 5) (f : RxFields) : Statement (.rxCOther typ f) := fun h =>
  (decode_ctrlBytes typ f).trans (congrArg _ (ctrlInstr_other typ f (of_decide_eq_true h)))

theorem rxDReserved0 (f : RxFields) (objs : List Obj) : Statement (.rxDReserved0 f objs) := fun h => decode_dataBytes 0 f objs h

theorem rxSourceCapabilities (f : RxFields) (objs : List Obj) : Statement (.rxSourceCapabilities f objs) := fun h => decode_dataBytes 1 f objs h

theorem rxRequest (f : RxFields) (objs : List Obj) : Statement (.rxRequest f objs) := fun h => decode_dataBytes 2 f objs h

theorem rxBist (f : RxFields) (objs : List Obj) : Statement (.rxBist f objs) := fun h => decode_dataBytes 3 f objs h

theorem rxSinkCapabilities (f : RxFields) (objs : List Obj) : Statement (.rxSinkCapabilities f objs) := fun h => decode_dataBytes 4 f objs h

theorem rxBatteryStatus (f : RxFields) (objs : List Obj) : Statement (.rxBatteryStatus f objs) := fun h => decode_dataBytes 5 f objs h

theorem rxAlert (f : RxFields) (objs : List Obj) : Statement (.rxAlert f objs) := fun h => decode_dataBytes 6 f objs h

theorem rxGetCountryInfo (f : RxFields) (objs : List Obj) : Statement (.rxGetCountryInfo f objs) := fun h => decode_dataBytes 7 f objs h

theorem rxEnterUsb (f : RxFields) (objs : List Obj) : Statement (.rxEnterUsb f objs) := fun h => decode_dataBytes 8 f objs h

theorem rxDReserved9 (f : RxFields) (objs : List Obj) : Statement (.rxDReserved9 f objs) := fun h => decode_dataBytes 9 f objs h

theorem rxDReserved10 (f : RxFields) (objs : List Obj) : Statement (.rxDReserved10 f objs) := fun h => decode_dataBytes 10 f objs h

theorem rxDReserved11 (f : RxFields) (objs : List Obj) : Statement (.rxDReserved11 f objs) := fun h => decode_dataBytes 11 f objs h

theorem rxDReserved12 (f : RxFields) (objs : List Obj) : Statement (.rxDReserved12 f objs) := fun h => decode_dataBytes 12 f objs h

theorem rxDReserved13 (f : RxFields) (objs : List Obj) : Statement (.rxDReserved13 f objs) := fun h => decode_dataBytes 13 f objs h

theorem rxDReserved14 (f : RxFields) (objs : List Obj) : Statement (.rxDReserved14 f objs) := fun h => decode_dataBytes 14 f objs h

theorem rxVendorDefined (f : RxFields) (objs : List Obj) : Statement (.rxVendorDefined f objs) := fun h => decode_dataBytes 15 f objs h

theorem rxDOther (typ : BitVec 5) (f : RxFields) (objs : List Obj) : Statement (.rxDOther typ f objs) := fun h =>
  have h := Bool.and_eq_true_iff.1 h
  (decode_dataBytes typ f objs h.2).trans (congrArg _ (dataInstr_other typ f objs (of_decide_eq_true h.1)))

theorem rxEReserved0 (f : RxFields) (objs : List Obj) : Statement (.rxEReserved0 f objs) := fun h => decode_extBytes 0 f objs h

theorem rxSourceCapabilitiesExtended (f : RxFields) (objs : List Obj) : Statement (.rxSourceCapabilitiesExtended f objs) := fun h => decode_extBytes 1 f objs h

theorem rxStatus (f : RxFields) (objs : List Obj) : Statement (.rxStatus f objs) := fun h => decode_extBytes 2 f objs h

theorem rxGetBatteryCap (f : RxFields) (objs : List Obj) : Statement (.rxGetBatteryCap f objs) := fun h => decode_extBytes 3 f objs h

theorem rxGetBatteryStatus (f : RxFields) (objs : List Obj) : Statement (.rxGetBatteryStatus f objs) := fun h => decode_extBytes 4 f objs h

theorem rxBatteryCapabilities (f : RxFields) (objs : List Obj) : Statement (.rxBatteryCapabilities f objs) := fun h => decode_extBytes 5 f objs h

theorem rxGetManufacturerInfo (f : RxFields) (objs : List Obj) : Statement (.rxGetManufacturerInfo f objs) := fun h => decode_extBytes 6 f objs h

theorem rxManufacturerInfo (f : RxFields) (objs : List Obj) : Statement (.rxManufacturerInfo f objs) := fun h => decode_extBytes 7 f objs h

theorem rxSecurityRequest (f : RxFields) (objs : List Obj) : Statement (.rxSecurityRequest f objs) := fun h => decode_extBytes 8 f objs h

theorem rxSecurityResponse (f : RxFields) (objs : List Obj) : Statement (.rxSecurityResponse f objs) := fun h => decode_extBytes 9 f objs h

theorem rxFirmwareUpdateRequest (f : RxFields) (objs : List Obj) : Statement (.rxFirmwareUpdateRequest f objs) := fun h => decode_extBytes 10 f objs h

theorem rxFirmwareUpdateResponse (f : RxFields) (objs : List Obj) : Statement (.rxFirmwareUpdateResponse f objs) := fun h => decode_extBytes 11 f objs h

theorem rxPpsStatus (f : RxFields) (objs : List Obj) : Statement (.rxPpsStatus f objs) := fun h => decode_extBytes 12 f objs h

theorem rxCountryInfo (f : RxFields) (objs : List Obj) : Statement (.rxCountryInfo f objs) := fun h => decode_extBytes 13 f objs h

theorem rxCountryCodes (f : RxFields) (objs : List Obj) : Statement (.rxCountryCodes f objs) := fun h => decode_extBytes 14 f objs h

theorem rxSinkCapabilitiesExtended (f : RxFields) (objs : List Obj) : Statement (.rxSinkCapabilitiesExtended f objs) := fun h => decode_extBytes 15 f objs h

theorem rxEOther (typ : BitVec 5) (f : RxFields) (objs : List Obj) : Statement (.rxEOther typ f objs) := fun h =>
  have h := Bool.and_eq_true_iff.1 h
  (decode_extBytes typ f objs h.2).trans (congrArg _ (extInstr_other typ f objs (of_decide_eq_true h.1)))

theorem txAccept (id : BitVec 3) : Statement (.txAccept id) := fun _ => by revert id; decide

theorem txReject (id : BitVec 3) : Statement (.txReject id) := fun _ => by revert id; decide

theorem txGetSourceCap (id : BitVec 3) : Statement (.txGetSourceCap id) := fun _ => by revert id; decide

theorem txNotSupported (id : BitVec 3) : Statement (.txNotSupported id) := fun _ => by revert id; decide

theorem txGetPpsStatus (id : BitVec 3) : Statement (.txGetPpsStatus id) := fun _ => by revert id; decide

theorem txRequest (id : BitVec 3) : Statement (.txRequest id) := fun _ => by revert id; decide

theorem txSinkCapabilities (id : BitVec 3) : Statement (.txSinkCapabilities id) := fun _ => by revert id; decide

theorem txSinkCapabilitiesExtended (id : BitVec 3) : Statement (.txSinkCapabilitiesExtended id) := fun _ => by revert id; decide

end Laws.RoundTrip

end Sys2Proof
end

