-- ==== Sys2Proof/Laws/Policy.lean ====
section
/-! SUPPORT. What TICK's parts can do, said once (spec/44_policy.md R273, R275): each half of phase A by its deadline,
the polls of phase B, and what the events of a poll call for. -/

namespace Sys2Proof.Machine

open Sys2Proof.Config

/-! ## Phase A by its deadlines -/

theorem State.capDue_iff (s : State) :
    s.capDue = true ↔ s.pl.waitSrcCap = true ∧ tSinkWaitCap < s.elapsed s.pl.tSrcCap := by
  simp [State.capDue, State.elapsed, tSinkWaitCap]

theorem State.psRdyDue_iff (s : State) :
    s.psRdyDue = true ↔ s.pl.waitPsRdy = true ∧ tReqToPsRdy < s.elapsed s.pl.tPsRdy := by
  simp [State.psRdyDue, State.elapsed, tReqToPsRdy]

theorem State.sendDue_iff (s : State) :
    s.sendDue = true ↔ s.pl.waitPsRdy = false ∧ s.requestDue = true := by
  have h : s.sendDue = (!s.pl.waitPsRdy && s.requestDue) := rfl
  rw [h, Bool.and_eq_true, Bool.not_eq_true']

theorem State.pollDue_iff (s : State) :
    s.pollDue = true ↔ s.env.alert = true ∨ tPdPolling < s.elapsed s.pl.tPoll := by
  simp [State.pollDue, State.elapsed, tPdPolling]

theorem State.phaseSrcCap_due {s : State} (h : s.capDue = true) : s.phaseSrcCap = s.srcCapTimeout := by
  rw [State.phaseSrcCap, if_pos ((State.capDue_iff s).1 h)]

theorem State.phaseSrcCap_not {s : State} (h : s.capDue = false) : s.phaseSrcCap = (.ok, s) := by
  rw [State.phaseSrcCap, if_neg fun h' => by rw [(State.capDue_iff s).2 h'] at h; exact absurd h (by decide)]

theorem State.phaseRequest_timeout {s : State} (h : s.psRdyDue = true) : s.phaseRequest = (.ok, s.psRdyTimeout) := by
  obtain ⟨h1, h2⟩ := (State.psRdyDue_iff s).1 h
  rw [State.phaseRequest, if_pos h1, if_pos h2]

theorem State.phaseRequest_send {s : State} (h : s.sendDue = true) : s.phaseRequest = s.sendRequest := by
  obtain ⟨h1, h2⟩ := (State.sendDue_iff s).1 h
  rw [State.phaseRequest, h1, if_neg (by decide), if_pos h2]

theorem State.phaseRequest_not {s : State} (h1 : s.psRdyDue = false) (h2 : s.sendDue = false) :
    s.phaseRequest = (.ok, s) := by
  unfold State.phaseRequest
  split
  · split
    · rw [(State.psRdyDue_iff s).2 ⟨‹_›, ‹_›⟩] at h1; exact absurd h1 (by decide)
    · rfl
  · split
    · rw [(State.sendDue_iff s).2 ⟨by simpa using ‹¬ s.pl.waitPsRdy = true›, ‹_›⟩] at h2
      exact absurd h2 (by decide)
    · rfl

theorem State.phasePoll_due {s : State} (h : s.pollDue = true) : s.phasePoll = s.pollAndDispatch := by
  rw [State.phasePoll, if_pos ((State.pollDue_iff s).1 h)]

theorem State.phasePoll_not {s : State} (h : s.pollDue = false) : s.phasePoll = (.ok, s) := by
  rw [State.phasePoll, if_neg fun h' => by rw [(State.pollDue_iff s).2 h'] at h; exact absurd h (by decide)]

@[simp] theorem worst_ok_left (b : Status) : worst .ok b = b := rfl

@[simp] theorem worst_ok_right (a : Status) : worst a .ok = a := by cases a <;> rfl

/-- TICK once INIT has succeeded: its three parts one after another. -/
theorem State.plTick_ready {s : State} (h : s.pl.ready = true) :
    s.plTick = (worst (worst s.phaseSrcCap.1 s.phaseSrcCap.2.phaseRequest.1)
        s.phaseSrcCap.2.phaseRequest.2.phasePoll.1, s.phaseSrcCap.2.phaseRequest.2.phasePoll.2) := by
  rw [State.plTick, if_pos h]

/-- With nothing to do in phase A, TICK is its phase B. -/
theorem State.plTick_quiet {s : State} (h : s.pl.ready = true) (hq : s.quiet = true) : s.plTick = s.phasePoll := by
  simp only [State.quiet, Bool.and_eq_true, Bool.not_eq_true'] at hq
  obtain ⟨⟨h1, h2⟩, h3⟩ := hq
  rw [State.plTick_ready h, State.phaseSrcCap_not h1, State.phaseRequest_not h2 h3]
  simp

/-! ## Phase A as the statements speak of it (Safety.lean) -/

/-- DEFAULT_POWER (R284), with a framer that is ready and with one that is not. -/
theorem State.defaultPower_eq (s : State) :
    s.defaultPower = State.log { s with
      fr := { s.fr with vbusSenseEn := s.fr.ready || s.fr.vbusSenseEn }
      pl := s.pl.withReady .typical defaultMv defaultMa } .powerReady none [] := by
  unfold State.defaultPower
  cases h : s.fr.ready with
  | true => simp only [State.frSetVbusSense_ready h, Bool.true_or]
  | false => simp only [State.frSetVbusSense_notReady h, Bool.false_or]

/-- A sub-step that transmits: the status of the framer's operation, and its end with the log tuple. -/
theorem State.transmits_iff {s t : State} {c : Instr} {r : Status × State} {hd : Option Half} {os : List Obj} {st : Byte}
    (hc : exec c s = .next (r.2.replySt r.1)) (hk : frStep s r.2) :
    s.transmits c hd os t st ↔ t = r.2.log .transmit hd os ∧ st = r.1.code := by
  have he : t = r.2.log .transmit hd os ↔ t = State.mk r.2.fr r.2.pe r.2.pl
      { r.2.env with log := s.env.log ++ [⟨r.2.env.now, .transmit, hd, os⟩] } s.port r.2.params := by
    rw [State.log, hk.2.2.2.2.2.1, hk.2.2.1]
  rw [he]
  constructor
  · rintro ⟨u, hu, hr, ht⟩
    obtain rfl := Host.Outcome.next.inj (hc.symm.trans hu)
    exact ⟨ht, (List.cons.inj hr).1.symm⟩
  · rintro ⟨ht, rfl⟩
    exact ⟨_, hc, rfl, ht⟩

theorem State.transmits_frame {s t : State} {h : Half} {objs os : List Obj} {hd : Option Half} {st : Byte} :
    s.transmits (.frTxFrame h objs) hd os t st ↔
      t = (s.frTxFrame h objs).2.log .transmit hd os ∧ st = (s.frTxFrame h objs).1.code :=
  State.transmits_iff rfl (frTxFrame_step s h objs)

theorem State.transmits_hardReset {s t : State} {hd : Option Half} {os : List Obj} {st : Byte} :
    s.transmits .frTxHardReset hd os t st ↔
      t = s.frTxHardReset.2.log .transmit hd os ∧ st = s.frTxHardReset.1.code :=
  State.transmits_iff rfl (frTxHardReset_step s)

/-- Get_Source_Cap by its command. -/
theorem State.peCreateGetSrcCap_iff {s : State} {h : Half} :
    exec .peCreateGetSrcCap s = .next (s.reply (le16 h)) ↔ h = (s.pe.buildGetSourceCap s.params).header := by
  have he : exec .peCreateGetSrcCap s = .next (s.reply (le16 (s.pe.buildGetSourceCap s.params).header)) := rfl
  rw [he]
  constructor
  · intro hh
    have h2 := congrArg (fun t : State => t.port.reply) (Host.Outcome.next.inj hh)
    simp only [State.reply_port] at h2
    exact (le16_inj (r := []) (r' := []) (by simpa using h2.symm)).1
  · rintro rfl; rfl

/-- The Request by its command. -/
theorem State.peCreateRequest_iff {s : State} {h : Half} {rdo : Obj} :
    exec .peCreateRequest s = .next (s.reply (le16 h ++ le32 rdo)) ↔
      h = (s.pe.buildRequest s.params).header ∧ [rdo] = (s.pe.buildRequest s.params).objs := by
  obtain ⟨o, ho⟩ : ∃ o, (s.pe.buildRequest s.params).objs = [o] := ⟨_, rfl⟩
  have he : exec .peCreateRequest s
      = .next (s.reply (le16 (s.pe.buildRequest s.params).header ++ objsBytes (s.pe.buildRequest s.params).objs)) := rfl
  have hl : ∀ r : Obj, le32 r = objsBytes [r] := fun r => (List.append_nil _).symm
  rw [he, ho, hl]
  constructor
  · intro hh
    have h2 := congrArg (fun t : State => t.port.reply) (Host.Outcome.next.inj hh)
    simp only [State.reply_port] at h2
    obtain ⟨h3, h4⟩ := le16_inj h2.symm
    have h5 := (takeObjs_eq (os := [rdo]) rfl).symm.trans ((congrArg (takeObjs 1) h4).trans (takeObjs_eq (os := [o]) rfl))
    exact ⟨h3, (Prod.mk.inj (Option.some.inj h5)).1⟩
  · rintro ⟨rfl, h4⟩; rw [h4]

/-- The status that counts, by its number (R273). -/
theorem worst_code (a b : Status) : (worst a b).code = if a.code = 0 then b.code else a.code := by
  cases a <;> rfl

/-- The first half of phase A is what the statements say it is. -/
theorem State.capPart_iff {s r : State} {st : Byte} :
    s.capPart r st ↔ r = s.phaseSrcCap.2 ∧ st = s.phaseSrcCap.1.code := by
  have ha : BitVec.ofNat 2 (s.pl.srcCapRetry.toNat + 1) = s.pl.srcCapRetry + 1 :=
    BitVec.eq_of_toNat_eq (by simp [BitVec.toNat_add])
  unfold State.capPart
  rw [ha]
  constructor
  · rintro (⟨hc, rfl, rfl⟩ | ⟨hc, h3, h, hh, ht⟩ | ⟨hc, h3, t, ht, rfl⟩)
    · rw [State.phaseSrcCap_not hc]; exact ⟨rfl, rfl⟩
    · obtain rfl := State.peCreateGetSrcCap_iff.1 hh
      rw [State.phaseSrcCap_due hc, State.srcCapTimeout, if_pos (by exact h3)]
      exact State.transmits_frame.1 ht
    · obtain ⟨rfl, rfl⟩ := State.transmits_hardReset.1 ht
      rw [State.phaseSrcCap_due hc, State.srcCapTimeout, if_neg (by exact fun h => by rw [h3] at h; exact absurd h (by decide))]
      exact ⟨rfl, rfl⟩
  · rintro ⟨rfl, rfl⟩
    cases hc : s.capDue with
    | false => rw [State.phaseSrcCap_not hc]; exact .inl ⟨rfl, rfl, rfl⟩
    | true =>
      rw [State.phaseSrcCap_due hc, State.srcCapTimeout]
      rcases Nat.lt_or_ge s.pl.srcCapRetry.toNat 3 with h3 | h3
      · rw [if_pos (by exact h3)]
        exact .inr (.inl ⟨rfl, h3, _, State.peCreateGetSrcCap_iff.2 rfl, State.transmits_frame.2 ⟨rfl, rfl⟩⟩)
      · rw [if_neg (by exact Nat.not_lt.2 h3)]
        exact .inr (.inr ⟨rfl, BitVec.eq_of_toNat_eq (Nat.le_antisymm (Nat.le_of_lt_succ s.pl.srcCapRetry.isLt) h3), _,
          State.transmits_hardReset.2 ⟨rfl, rfl⟩, rfl⟩)

/-- SEND_REQUEST (R286) by its status. -/
theorem State.sendRequest_eq (s : State) :
    let f := s.pe.buildRequest s.params
    let t := (s.frTxFrame f.header f.objs).2.log .transmit (some f.header) f.objs
    s.sendRequest = ((s.frTxFrame f.header f.objs).1,
      if (s.frTxFrame f.header f.objs).1.code = 0 then { t with pl := { t.pl with
        reqPending := false
        waitPsRdy := true
        tPsRdy := t.env.now
        tPpsReq := t.env.now } } else t) := by
  simp only
  unfold State.sendRequest
  simp only
  cases h : (s.frTxFrame (s.pe.buildRequest s.params).header (s.pe.buildRequest s.params).objs).1 <;> rfl

/-- The second half of phase A is what the statements say it is. -/
theorem State.requestPart_iff {s r : State} {st : Byte} :
    s.requestPart r st ↔ r = s.phaseRequest.2 ∧ st = s.phaseRequest.1.code := by
  unfold State.requestPart
  constructor
  · rintro (⟨h1, h2, rfl, rfl⟩ | ⟨h1, rfl, rfl⟩ | ⟨h2, h, rdo, t, hh, ht, rfl⟩)
    · rw [State.phaseRequest_not h1 h2]; exact ⟨rfl, rfl⟩
    · rw [State.phaseRequest_timeout h1, State.psRdyTimeout, State.defaultPower_eq]; exact ⟨rfl, rfl⟩
    · obtain ⟨rfl, ho⟩ := State.peCreateRequest_iff.1 hh
      rw [ho] at ht
      obtain ⟨rfl, rfl⟩ := State.transmits_frame.1 ht
      rw [State.phaseRequest_send h2, State.sendRequest_eq]
      exact ⟨rfl, rfl⟩
  · rintro ⟨rfl, rfl⟩
    cases h2 : s.sendDue with
    | true =>
      rw [State.phaseRequest_send h2, State.sendRequest_eq]
      exact .inr (.inr ⟨rfl, _, s.pe.requestObject, _, State.peCreateRequest_iff.2 ⟨rfl, rfl⟩,
        State.transmits_frame.2 ⟨rfl, rfl⟩, rfl⟩)
    | false =>
      cases h1 : s.psRdyDue with
      | true =>
        rw [State.phaseRequest_timeout h1, State.psRdyTimeout, State.defaultPower_eq]
        exact .inr (.inl ⟨rfl, rfl, rfl⟩)
      | false => rw [State.phaseRequest_not h1 h2]; exact .inl ⟨rfl, rfl, rfl, rfl⟩

/-- Phase A is what the statements say it is. -/
theorem State.phaseA_iff {s r : State} {st : Byte} :
    s.phaseA r st ↔ r = s.phaseSrcCap.2.phaseRequest.2 ∧
      st = (worst s.phaseSrcCap.1 s.phaseSrcCap.2.phaseRequest.1).code := by
  simp only [State.phaseA, State.capPart_iff, State.requestPart_iff]
  constructor
  · rintro ⟨m, a, b, ⟨rfl, rfl⟩, ⟨rfl, rfl⟩, rfl⟩
    exact ⟨rfl, (worst_code ..).symm⟩
  · rintro ⟨rfl, rfl⟩
    exact ⟨_, _, _, ⟨rfl, rfl⟩, ⟨rfl, rfl⟩, worst_code ..⟩

/-- With nothing due, phase A leaves the state as it is. -/
theorem State.phaseA_quiet {s : State} (h : s.quiet = true) : s.phaseA s 0 := by
  simp only [State.quiet, Bool.and_eq_true, Bool.not_eq_true'] at h
  obtain ⟨⟨h1, h2⟩, h3⟩ := h
  exact ⟨s, 0, 0, .inl ⟨h1, rfl, rfl⟩, .inl ⟨h2, h3, rfl, rfl⟩, rfl⟩

/-- A TICK goes on from what phase A leaves. -/
theorem State.tick_phaseA {s r : State} {st : Byte} (h : s.pl.ready = true) (ha : s.phaseA r st) :
    exec .tick s = .next (r.phasePoll.2.reply [if st = 0 then r.phasePoll.1.code else st]) := by
  obtain ⟨rfl, rfl⟩ := State.phaseA_iff.1 ha
  rw [← worst_code]
  exact congrArg (fun p : Status × State => Host.Outcome.next (p.2.replySt p.1)) (State.plTick_ready h)

/-! ## Phase B -/

/-- A poll that is not Busy is the only one, however many tries there are. -/
theorem pollTries_of_not_busy {s : State} (h : s.frPoll.status ≠ .busy) (n : Nat) : pollTries n s = s.frPoll := by
  cases n with
  | zero => rfl
  | succ n => rw [pollTries, if_neg h]

/-- Every try keeps what a poll keeps. -/
theorem pollTries_step (n : Nat) (s : State) : frStep s (pollTries n s).state := by
  induction n generalizing s with
  | zero => exact frPoll_step s
  | succ n ih =>
    unfold pollTries
    split
    · exact frStep_trans (frPoll_step s) (ih _)
    · exact frPoll_step s

/-- Polls go the same way whatever PE, PL and the command port hold, and leave it. -/
theorem pollTries_withUnits (n : Nat) (s : State) (pe : Pe) (pl : Pl) (po : Port) :
    pollTries n (s.withUnits pe pl po) = (pollTries n s).withUnits pe pl po := by
  induction n generalizing s with
  | zero => exact frPoll_withUnits ..
  | succ n ih =>
    unfold pollTries
    rw [frPoll_withUnits, apply_ite (Polled.withUnits · pe pl po), ← ih]
    rfl

/-- Only a framer that is ready settles on anything but NotInitialised. -/
theorem pollTries_ready {n : Nat} {s : State} (h : (pollTries n s).status ≠ .notInitialised) :
    (pollTries n s).state.fr.ready = true := by
  induction n generalizing s with
  | zero => exact frPoll_ready h
  | succ n ih =>
    unfold pollTries at h ⊢
    split
    · exact ih (by rwa [if_pos ‹_›] at h)
    · exact frPoll_ready (by rwa [if_neg ‹_›] at h)

/-- The poll a TICK settles on. -/
def State.settled (s : State) : Polled := pollTries (s.params.nPollTries - 1) s

theorem State.settled_step (s : State) : frStep s s.settled.state := pollTries_step _ s

/-- POLL_AND_DISPATCH: the poll it settles on, T_POLL written, and its events where it answers OK. -/
theorem State.pollAndDispatch_eq (s : State) :
    s.pollAndDispatch =
      let t := s.settled.state.withUnits s.pe { s.pl with tPoll := s.env.now } s.port
      if s.settled.status = .ok then t.onFrEvents s.settled.events else (s.settled.status, t) := by
  have h : pollTries (s.params.nPollTries - 1) (s.withUnits s.pe { s.pl with tPoll := s.env.now } s.port)
      = s.settled.withUnits s.pe { s.pl with tPoll := s.env.now } s.port := pollTries_withUnits ..
  have he : s.pollAndDispatch = if (pollTries (s.params.nPollTries - 1)
      (s.withUnits s.pe { s.pl with tPoll := s.env.now } s.port)).status = .ok then
      (pollTries (s.params.nPollTries - 1)
        (s.withUnits s.pe { s.pl with tPoll := s.env.now } s.port)).state.onFrEvents
        (pollTries (s.params.nPollTries - 1) (s.withUnits s.pe { s.pl with tPoll := s.env.now } s.port)).events
      else ((pollTries (s.params.nPollTries - 1)
          (s.withUnits s.pe { s.pl with tPoll := s.env.now } s.port)).status,
        (pollTries (s.params.nPollTries - 1)
          (s.withUnits s.pe { s.pl with tPoll := s.env.now } s.port)).state) := rfl
  rw [he, h]; rfl

/-- The commands FR_POLL show what the operation settles on, the last answer being its own. -/
theorem State.pollsTo_reads {n : Nat} {s u : State} (h : s.pollsTo n u) :
    u = (pollTries n s).state.reply [(pollTries n s).status.code, (pollTries n s).events.byte] := by
  induction n generalizing s with
  | zero => exact (Host.Outcome.next.inj h).symm
  | succ n ih =>
    obtain ⟨v, hv, h⟩ := h
    obtain rfl := Host.Outcome.next.inj hv
    by_cases hb : s.frPoll.status = .busy
    · have he : s.frPoll.events.byte = 0 := by
        rw [frPoll_silent s (by rw [hb]; decide)]; decide
      rw [if_pos (by rw [State.reply_port, hb, he]; rfl)] at h
      have hu := ih h
      have hr : ∀ bs, s.frPoll.state.reply bs = s.frPoll.state.withUnits s.frPoll.state.pe s.frPoll.state.pl
          ⟨s.frPoll.state.port.inbox, bs⟩ := fun _ => rfl
      rw [hr, pollTries_withUnits] at hu
      rw [pollTries, if_pos hb, hu]
      have hk := pollTries_step n s.frPoll.state
      simp only [Polled.withUnits, State.reply, State.withUnits, hk.1, hk.2.1, hk.2.2.1]
    · rw [if_neg (by
        intro hc
        rw [State.reply_port] at hc
        exact hb (Status.code_inj (List.cons.inj hc).1))] at h
      rw [pollTries, if_neg hb, h]

/-- What a TICK settles on, from the answer it is told by. -/
theorem State.settlesAt_reads {s u : State} {st ev : Byte} (h : s.settlesAt u) (hr : u.port.reply = [st, ev]) :
    s.settled.status.code = st ∧ s.settled.events.byte = ev ∧ u = s.settled.state.reply [st, ev] := by
  have hu := State.pollsTo_reads h
  have hp : u.port.reply = [s.settled.status.code, s.settled.events.byte] := by rw [hu]; rfl
  rw [hr, List.cons.injEq, List.cons.injEq] at hp
  exact ⟨hp.1.symm, hp.2.1.symm, hu.trans (by rw [hp.1, hp.2.1]; rfl)⟩

/-- The command FR_POLL shows what the operation answers: a reply gives the poll back. -/
theorem execFrPoll_reads {s u : State} {st ev : Byte} (h : execFrPoll s = .next u) (hr : u.port.reply = [st, ev]) :
    s.frPoll.status.code = st ∧ s.frPoll.events.byte = ev ∧ s.frPoll.state.reply [st, ev] = u := by
  obtain rfl := Host.Outcome.next.inj h
  simp only [State.reply_port, List.cons.injEq, and_true] at hr
  rw [hr.1, hr.2]
  exact ⟨rfl, rfl, rfl⟩

/-! ## What a PE or PL operation keeps -/

theorem Pe.setPps_msgId (pe : Pe) (p : Params) (v : Half) (i : Byte) (b : Bool) :
    (pe.setPps p v i b).2.msgId = pe.msgId := by unfold Pe.setPps; simp only; split <;> rfl

theorem Pe.setPps_list (pe : Pe) (p : Params) (v : Half) (i : Byte) (b : Bool) :
    (pe.setPps p v i b).2.srcPdo = pe.srcPdo ∧ (pe.setPps p v i b).2.pdoCount = pe.pdoCount ∧
    (pe.setPps p v i b).2.curTable = pe.curTable ∧ (pe.setPps p v i b).2.curIndex = pe.curIndex ∧
    (pe.setPps p v i b).2.powerOption = pe.powerOption := by
  unfold Pe.setPps; simp only; split <;> exact ⟨rfl, rfl, rfl, rfl, rfl⟩

/-! ## Frames PL sends -/

/-- SEND_REQUEST (R286): the Request is logged whether or not it was written; the flags follow the write. -/
theorem State.sendRequest_ok {s : State} (h : s.fr.ready = true) (h0 : s.succeeds 0 = true) :
    s.sendRequest = (.ok,
      let t := (s.after [.txWrite (txBytes s.params (s.pe.buildRequest s.params).header (s.pe.buildRequest s.params).objs)]).log .transmit
        (some (s.pe.buildRequest s.params).header) (s.pe.buildRequest s.params).objs
      { t with pl := { t.pl with
        reqPending := false
        waitPsRdy := true
        tPsRdy := t.env.now
        tPpsReq := t.env.now } }) := by
  have hf := (State.frTxFrame_ready h (s.pe.buildRequest s.params).header (s.pe.buildRequest s.params).objs).trans (State.attempt_ok h0)
  unfold State.sendRequest
  simp only [hf]
  rfl

theorem State.sendRequest_fail {s : State} (h : s.fr.ready = true) (h0 : s.succeeds 0 = false) :
    s.sendRequest = (.writeError,
      (s.after [.txWrite (txBytes s.params (s.pe.buildRequest s.params).header (s.pe.buildRequest s.params).objs)]).log .transmit
        (some (s.pe.buildRequest s.params).header) (s.pe.buildRequest s.params).objs) := by
  obtain ⟨e, he⟩ := State.not_succeeds h0
  have hf := (State.frTxFrame_ready h (s.pe.buildRequest s.params).header (s.pe.buildRequest s.params).objs).trans (State.attempt_fail he)
  unfold State.sendRequest
  simp only [hf]
  rfl

/-- ON_GOOD_CRC_SENT (R283) with no reply to send: only the guard delay. -/
theorem State.onGoodCrcSent_silent {s : State} (h : s.pe.respond s.params = none) :
    s.onGoodCrcSent = (.ok, s.delay s.params.tGuardMs) := by
  unfold State.onGoodCrcSent
  simp only [State.delay_pe, State.delay_params, h]

/-- ON_GOOD_CRC_SENT with a reply that is written. -/
theorem State.onGoodCrcSent_sent {s : State} {f : Frame} (h : s.pe.respond s.params = some f)
    (hr : s.fr.ready = true) (h0 : s.succeeds 0 = true) :
    s.onGoodCrcSent =
      let t := (s.after [.delayMs s.params.tGuardMs, .txWrite (txBytes s.params f.header f.objs)]).log .transmit
        (some f.header) f.objs
      (.ok, if isRequestHeader s.params f.header = true then
        { t with pl := { t.pl with reqPending := false, tPpsReq := t.env.now } } else t) := by
  have hf := (State.frTxFrame_ready (s := s.delay s.params.tGuardMs) hr f.header f.objs).trans (State.attempt_ok h0)
  unfold State.onGoodCrcSent
  simp only [State.delay_pe, State.delay_params, h, hf]
  by_cases hq : isRequestHeader s.params f.header = true
  · rw [if_pos hq, if_pos ⟨trivial, hq⟩]; rfl
  · rw [if_neg hq, if_neg fun hh => hq hh.2]; rfl

/-- ON_GOOD_CRC_SENT with a reply whose write fails: nothing of PL changes. -/
theorem State.onGoodCrcSent_fail {s : State} {f : Frame} (h : s.pe.respond s.params = some f)
    (hr : s.fr.ready = true) (h0 : s.succeeds 0 = false) :
    s.onGoodCrcSent = (.writeError,
      (s.after [.delayMs s.params.tGuardMs, .txWrite (txBytes s.params f.header f.objs)]).log .transmit
        (some f.header) f.objs) := by
  obtain ⟨e, he⟩ := State.not_succeeds h0
  have hf := (State.frTxFrame_ready (s := s.delay s.params.tGuardMs) hr f.header f.objs).trans (State.attempt_fail he)
  unfold State.onGoodCrcSent
  simp only [State.delay_pe, State.delay_params, h, hf]
  rfl

end Sys2Proof.Machine
end

