-- ==== Sys2Proof/Laws/Receive.lean ====
section
/-! SUPPORT. PE_HANDLE_MSG by the fields of the header (spec/41_codec_rx.md R170): the entry a header of each class makes
current, named by its row of 30_encoding.md R95 to R97, and the objects its handler is run on. -/

namespace Sys2Proof.Machine

open Sys2Proof.Config

/-- The event byte of a handler that emits nothing. -/
@[simp] theorem PeEvents.byte_empty : PeEvents.empty.byte = 0 := by decide

theorem headerType_toNat (h : Half) : (h.extractLsb' 0 5).toNat = h.toNat % 2 ^ 5 := by
  rw [half_field]; simp

/-- The index a header's type is clamped to. -/
theorem clampIndex_eq {h : Half} {t : Table} {k : BitVec 5} (hk : min (h.toNat % 2 ^ 5) (lastIndex t) = k.toNat) :
    clampIndex t (h.extractLsb' 0 5) = k := by
  apply BitVec.eq_of_toNat_eq
  rw [clampIndex, BitVec.toNat_ofNat, headerType_toNat, hk, Nat.mod_eq_of_lt k.isLt]

/-- A header with no objects and ext 0 selects the CTRL table. -/
theorem Pe.handleMsg_ctrl (pe : Pe) {p : Params} (hp : p.codes.wf = true) {h : Half} (objs : List Obj) {k : BitVec 5}
    (hk : min (h.toNat % 2 ^ 5) 23 = (typeCode p .ctrl k).toNat) (hz : h.toNat / 2 ^ 12 = 0) :
    pe.handleMsg p h objs = (pe.setCurrent .ctrl (typeCode p .ctrl k)).runHandler p []
      (handlerOf .ctrl k) := by
  have hext : h.extractLsb' 15 1 = 0 := by
    apply BitVec.eq_of_toNat_eq; rw [half_field]; show _ = 0; omega
  have hcount : objectCount h = 0 := by rw [objectCount, half_field, hz, Nat.zero_mod]
  simp only [Pe.handleMsg, hext, hcount, tableOf, present]
  rw [if_neg (by decide), if_pos trivial, clampIndex_eq (t := .ctrl) hk, codeRow_typeCode hp]

/-- A header with as many objects as it says, and ext 0, selects the DATA table. -/
theorem Pe.handleMsg_data (pe : Pe) {p : Params} (hp : p.codes.wf = true) {h : Half} {objs : List Obj} {k : BitVec 5}
    (hk : min (h.toNat % 2 ^ 5) 16 = (typeCode p .data k).toNat) (hc : h.toNat / 2 ^ 12 = objs.length) (h1 : 1 ≤ objs.length)
    (h7 : objs.length ≤ 7) :
    pe.handleMsg p h objs = (pe.setCurrent .data (typeCode p .data k)).runHandler p objs
      (handlerOf .data k) := by
  have hext : h.extractLsb' 15 1 = 0 := by
    apply BitVec.eq_of_toNat_eq; rw [half_field]; show _ = 0; omega
  have hcount : objectCount h = objs.length := by rw [objectCount, half_field, hc]; omega
  simp only [Pe.handleMsg, hext, hcount, tableOf, present_eq rfl]
  rw [if_neg (by decide), if_neg (by omega), clampIndex_eq (t := .data) hk, codeRow_typeCode hp]

/-- A header with as many objects as it says, and ext 1, selects the EXT table. -/
theorem Pe.handleMsg_ext (pe : Pe) {p : Params} (hp : p.codes.wf = true) {h : Half} {objs : List Obj} {k : BitVec 5}
    (hk : min (h.toNat % 2 ^ 5) 16 = (typeCode p .ext k).toNat) (hc : h.toNat / 2 ^ 12 = 8 + objs.length) :
    pe.handleMsg p h objs = (pe.setCurrent .ext (typeCode p .ext k)).runHandler p objs
      (handlerOf .ext k) := by
  have hh := h.isLt
  have hext : h.extractLsb' 15 1 = 1 := by
    apply BitVec.eq_of_toNat_eq; rw [half_field]; show _ = 1; omega
  have hcount : objectCount h = objs.length := by rw [objectCount, half_field, hc]; omega
  simp only [Pe.handleMsg, hext, hcount, tableOf, present_eq rfl]
  rw [if_pos trivial, clampIndex_eq (t := .ext) hk, codeRow_typeCode hp]

/-- An entry whose handler does nothing: the current message alone changes, and no event is answered. -/
theorem State.handled_noHandler (s : State) {h : Half} {objs objs' : List Obj} {t : Table} {k : BitVec 5}
    (hh : handlerOf t k = none ∨ handlerOf t k = some .nop)
    (e : s.pe.handleMsg s.params h objs
      = (s.pe.setCurrent t (typeCode s.params t k)).runHandler s.params objs' (handlerOf t k)) :
    execPeHandleMsg h objs s = .next (State.reply
      { s with pe := { s.pe with curTable := t, curIndex := typeCode s.params t k } } [0]) := by
  rw [execPeHandleMsg, e]
  rcases hh with hh | hh <;> rw [hh] <;> simp only [Pe.runHandler, Pe.noHandler, Pe.setCurrent, PeEvents.byte_empty]

/-- The same of a received message of such an entry. -/
theorem State.receivedPlain_eq (s : State) (t : Table) (k : BitVec 5) :
    s.receivedPlain t k = .next (State.reply
      { s with pe := { s.pe with curTable := t, curIndex := typeCode s.params t k } } [0]) := by
  simp only [State.receivedPlain, State.received, State.receiving, Pe.noHandler, Pe.setCurrent, PeEvents.byte_empty]

/-- What PE_RESPOND builds with the entry of row k as the current message. -/
theorem Pe.respond_current (pe : Pe) {p : Params} (hp : p.codes.wf = true) {t : Table} {k : BitVec 5}
    (ht : pe.curTable = t) (hk : pe.curIndex = typeCode p t k) :
    pe.respond p = (responderOf t k).map (pe.runResponder p) := by
  rw [Pe.respond, ht, hk, codeRow_typeCode hp]

end Sys2Proof.Machine
end

