-- ==== Sys2Proof/Tests/Slice0.lean ====
section
/-! SUPPORT. Small checks of the model. Expected values are from spec/95_test_vectors.md (the vector is named in each
comment), from the encoding tables of spec/30_encoding.md written out by hand, and, for the witness theorems, hand
calculation. A witness theorem shows a state and operands that meet every hypothesis of a statement at once. -/

namespace Sys2Proof.Tests

open Sys2Proof Sys2Proof.Config Sys2Proof.Machine

/-! ## Small states -/

/-- A transport answer: success, no time, VBUS present, no flag latched, the receive FIFO empty. -/
def ans : XAnswer := ⟨none, 0, 0, ⟨true, false, false, true⟩, .opn, []⟩

/-- An answer to a status read. -/
def stat (vbus hard gcrc empty : Bool) : XAnswer := { ans with status := ⟨vbus, hard, gcrc, empty⟩ }

/-- An answer to a sample. -/
def lvl (l : LineLevel) : XAnswer := { ans with level := l }

/-- An answer to a FIFO read. -/
def fifo (bs : List Byte) : XAnswer := { ans with bytes := bs }

/-- An answer to the identification read. -/
def ident (b : Byte) : XAnswer := { ans with byte := b }

/-- A primitive that fails. -/
def bad (e : TransportError) : XAnswer := { ans with fail := some e }

/-- The same answers, a millisecond each. -/
def slow (as : List XAnswer) : List XAnswer := as.map fun a => { a with dt := 1 }

/-- s with the transport's next answers. -/
def asked (s : State) (as : List XAnswer) : State := { s with env := { s.env with answers := as } }

/-- s at a time, with the alert line. -/
def timed (s : State) (now : Half) (alert : Bool) : State := { s with env := { s.env with now := now, alert := alert } }

/-- What an instruction makes of s. -/
def run (i : Instr) (s : State) : State :=
  match exec i s with
  | .next t => t
  | _ => s

/-- The answer to an instruction. -/
def answer (i : Instr) (s : State) : List Byte := (run i s).port.reply

/-- The bytes an instruction pushes to the transmit FIFO. -/
def sends (i : Instr) (s : State) : List Byte := txPushed (run i s).env.calls

/-- FR and PL initialised, Unattached. -/
def rdy : State := { State.reset with fr := { Fr.reset with ready := true }, pl := { Pl.reset with ready := true } }

/-- Attached on CC1. -/
def att : State :=
  { rdy with fr := { rdy.fr with attach := .attached, cc1 := .rd1A5, ccSel := .cc1, vbusLast := true } }

/-- The reference list L1. -/
def l1 : List Obj := [0x0001912C, 0x8B42D0C8, 0xC0DC213C]

/-- The reference list L2. -/
def l2 : List Obj := [0x0001912C, 0x0002D12C, 0x0003C12C, 0x0004B12C, 0x000641F4, 0x59019190]

/-- s with a capability list, a target and a selection. -/
def offered (s : State) (objs : List Obj) (v : Half) (i : Byte) (sel : BitVec 3) : State :=
  { s with pe := { s.pe with
      pdoCount := BitVec.ofNat 3 objs.length
      srcPdo := Objs7.ofList objs
      ppsV := v
      ppsI := i
      selected := sel } }

/-- s with a message id. -/
def numbered (s : State) (id : BitVec 3) : State := { s with pe := { s.pe with msgId := id } }

/-- The header fields of revision 2 and a message id. -/
def rev2 (id : BitVec 3) : RxFields := ⟨2, id, 0, 0⟩

/-- One command, at the head of the port. -/
def cmd (bs : List Byte) : Stimulus := ⟨false, 0, false, [], .cmd, bs⟩

/-- s with stimuli waiting. -/
def queued (s : State) (xs : List Stimulus) : State := { s with port := { s.port with inbox := xs } }

/-- The answers of an attach: six samples of each pin. -/
def attachAnswers (a b : LineLevel) : List XAnswer :=
  [stat true false false true, ans] ++ List.replicate 6 (lvl a) ++ List.replicate 6 (lvl b) ++ [ans, ans]

/-- The answers of a poll that receives a frame, its check bytes added. -/
def frameAnswers (gcrc : Bool) (f : List Byte) : List XAnswer :=
  [stat true false gcrc false] ++ (if gcrc then [ans] else [])
    ++ [fifo (f.take 3), fifo (f.drop 3 ++ [0xDE, 0xAD, 0xBE, 0xEF]), ans]

/-- The bytes of L1's Source_Capabilities behind its token. -/
def l1Frame : List Byte := [0xE0, 0x81, 0x30, 0x2C, 0x91, 0x01, 0x00, 0xC8, 0xD0, 0x42, 0x8B, 0x3C, 0x21, 0xDC, 0xC0]

/-- Codes other than the default ones: Accept and Reject exchanged, and so Request and BIST, and PPS_Status and
Country_Info. -/
def otherCodes : TypeCodes where
  ctrl := [0, 1, 2, 4, 3, 5, 6, 7, 8, 9, 10, 11, 12, 13, 14, 15, 16, 17, 18, 19, 20, 21, 22]
  data := [0, 1, 3, 2, 4, 5, 6, 7, 8, 9, 10, 11, 12, 13, 14, 15]
  ext := [0, 1, 2, 3, 4, 5, 6, 7, 8, 9, 10, 11, 13, 12, 14, 15]

/-- s with those codes. -/
def recoded (s : State) : State := { s with params := { s.params with codes := otherCodes } }

/-! ## WellFormed refuses an ill-formed term of each kind -/

theorem test_wf_frame_short : (Instr.frTxFrame 0x1082 []).wf = false := by decide
theorem test_wf_frame_long : (Instr.peHandleMsg 0x0081 [0]).wf = false := by decide
theorem test_wf_reserved_listed : (Instr.cmdReserved 0x2E).wf = false := by decide
theorem test_wf_ctrl_other_named : (Instr.rxCOther 22 (rev2 0)).wf = false := by decide
theorem test_wf_data_other_named : (Instr.rxDOther 15 (rev2 0) [0]).wf = false := by decide
theorem test_wf_data_other_empty : (Instr.rxDOther 16 (rev2 0) []).wf = false := by decide
theorem test_wf_ext_other_named : (Instr.rxEOther 15 (rev2 0) []).wf = false := by decide
theorem test_wf_ext_other_long : (Instr.rxEOther 16 (rev2 0) (List.replicate 8 0)).wf = false := by decide
theorem test_wf_data_empty : (Instr.rxSourceCapabilities (rev2 0) []).wf = false := by decide
theorem test_wf_data_long : (Instr.rxBist (rev2 0) (List.replicate 8 0)).wf = false := by decide
theorem test_wf_ext_long : (Instr.rxPpsStatus (rev2 0) (List.replicate 8 0)).wf = false := by decide

/-! ## Decoding, words written out from spec/30_encoding.md -/

/-- R111, op codes 0x01 to 0x09. -/
theorem test_decode_app :
    decode .cmd [0x01, 0x07, 0x68, 0x10, 0xE8, 0x03] = .instr (.init 7 4200 1000) ∧
    decode .cmd [0x02] = .instr (.tick) ∧
    decode .cmd [0x03] = .instr (.isTrans) ∧
    decode .cmd [0x04] = .instr (.getMv) ∧
    decode .cmd [0x05] = .instr (.getMa) ∧
    decode .cmd [0x06] = .instr (.getMw) ∧
    decode .cmd [0x07] = .instr (.getReady) ∧
    decode .cmd [0x08, 0x88, 0x13, 0xDC, 0x05] = .instr (.reqPps 5000 1500) ∧
    decode .cmd [0x09, 0x01] = .instr (.reqOpt 1) := by decide

/-- R111, op codes 0x10 to 0x18. -/
theorem test_decode_fr :
    decode .cmd [0x10] = .instr (.frInit) ∧
    decode .cmd [0x11] = .instr (.frPoll) ∧
    decode .cmd [0x12, 0x80] = .instr (.frSetVbusSense 0x80) ∧
    decode .cmd [0x13] = .instr (.frReadCc) ∧
    decode .cmd [0x14] = .instr (.frReadVbus) ∧
    decode .cmd [0x15] = .instr (.frReadId) ∧
    decode .cmd [0x16, 0x82, 0x10, 0x28, 0x84, 0x03, 0x30] = .instr (.frTxFrame 0x1082 [0x30038428]) ∧
    decode .cmd [0x17] = .instr (.frTxHardReset) ∧
    decode .cmd [0x18] = .instr (.frGetRx) := by decide

/-- R111, op codes 0x20 to 0x2E, and a reserved one. -/
theorem test_decode_pe :
    decode .cmd [0x20] = .instr (.peInit) ∧
    decode .cmd [0x21] = .instr (.peReset) ∧
    decode .cmd [0x22, 0x83, 0x20, 0x01, 0x02, 0x03, 0x04, 0x05, 0x06, 0x07, 0x08]
      = .instr (.peHandleMsg 0x2083 [0x04030201, 0x08070605]) ∧
    decode .cmd [0x23] = .instr (.peRespond) ∧
    decode .cmd [0x24, 0xC2, 0x01, 0x28] = .instr (.peEvaluate 450 40) ∧
    decode .cmd [0x25] = .instr (.peCreateGetSrcCap) ∧
    decode .cmd [0x26] = .instr (.peCreateGetPpsStatus) ∧
    decode .cmd [0x27] = .instr (.peCreateRequest) ∧
    decode .cmd [0x28, 0xF9] = .instr (.peSetPowerOption 0xF9) ∧
    decode .cmd [0x29, 0xFF] = .instr (.peSelectPower 255) ∧
    decode .cmd [0x2A, 0xC2, 0x01, 0x28, 0x01] = .instr (.peSetPps 450 40 1) ∧
    decode .cmd [0x2B, 0x02] = .instr (.peGetPowerInfo 2) ∧
    decode .cmd [0x2C] = .instr (.peGetSelected) ∧
    decode .cmd [0x2D] = .instr (.peGetPpsStatus) ∧
    decode .cmd [0x2E] = .instr (.peGetTarget) ∧
    decode .cmd [0xFF] = .instr (.cmdReserved 0xFF) := by decide

/-- R95, header 0x0680 + type: revision 2, id 3. -/
theorem test_decode_ctrl_low :
    decode .rx [0x80, 0x06] = .instr (.rxCReserved0 (rev2 3)) ∧
    decode .rx [0x81, 0x06] = .instr (.rxGoodCrc (rev2 3)) ∧
    decode .rx [0x82, 0x06] = .instr (.rxGotoMin (rev2 3)) ∧
    decode .rx [0x83, 0x06] = .instr (.rxAccept (rev2 3)) ∧
    decode .rx [0x84, 0x06] = .instr (.rxReject (rev2 3)) ∧
    decode .rx [0x85, 0x06] = .instr (.rxPing (rev2 3)) ∧
    decode .rx [0x86, 0x06] = .instr (.rxPsRdy (rev2 3)) ∧
    decode .rx [0x87, 0x06] = .instr (.rxGetSourceCap (rev2 3)) ∧
    decode .rx [0x88, 0x06] = .instr (.rxGetSinkCap (rev2 3)) ∧
    decode .rx [0x89, 0x06] = .instr (.rxDrSwap (rev2 3)) ∧
    decode .rx [0x8A, 0x06] = .instr (.rxPrSwap (rev2 3)) ∧
    decode .rx [0x8B, 0x06] = .instr (.rxVconnSwap (rev2 3)) := by decide

/-- R95, the rest of the CTRL table and the catch-all. -/
theorem test_decode_ctrl_high :
    decode .rx [0x8C, 0x06] = .instr (.rxWait (rev2 3)) ∧
    decode .rx [0x8D, 0x06] = .instr (.rxSoftReset (rev2 3)) ∧
    decode .rx [0x8E, 0x06] = .instr (.rxDataReset (rev2 3)) ∧
    decode .rx [0x8F, 0x06] = .instr (.rxDataResetComplete (rev2 3)) ∧
    decode .rx [0x90, 0x06] = .instr (.rxNotSupported (rev2 3)) ∧
    decode .rx [0x91, 0x06] = .instr (.rxGetSourceCapExtended (rev2 3)) ∧
    decode .rx [0x92, 0x06] = .instr (.rxGetStatus (rev2 3)) ∧
    decode .rx [0x93, 0x06] = .instr (.rxFrSwap (rev2 3)) ∧
    decode .rx [0x94, 0x06] = .instr (.rxGetPpsStatus (rev2 3)) ∧
    decode .rx [0x95, 0x06] = .instr (.rxGetCountryCodes (rev2 3)) ∧
    decode .rx [0x96, 0x06] = .instr (.rxGetSinkCapExtended (rev2 3)) ∧
    decode .rx [0x97, 0x06] = .instr (.rxCOther 23 (rev2 3)) ∧
    decode .rx [0x9F, 0x00] = .instr (.rxCOther 31 (rev2 0)) := by decide

/-- R96, header 0x1A80 + type: revision 2, id 5, one object. -/
theorem test_decode_data_low :
    decode .rx [0x80, 0x1A, 0x01, 0x02, 0x03, 0x04] = .instr (.rxDReserved0 (rev2 5) [0x04030201]) ∧
    decode .rx [0x81, 0x1A, 0x01, 0x02, 0x03, 0x04] = .instr (.rxSourceCapabilities (rev2 5) [0x04030201]) ∧
    decode .rx [0x82, 0x1A, 0x01, 0x02, 0x03, 0x04] = .instr (.rxRequest (rev2 5) [0x04030201]) ∧
    decode .rx [0x83, 0x1A, 0x01, 0x02, 0x03, 0x04] = .instr (.rxBist (rev2 5) [0x04030201]) ∧
    decode .rx [0x84, 0x1A, 0x01, 0x02, 0x03, 0x04] = .instr (.rxSinkCapabilities (rev2 5) [0x04030201]) ∧
    decode .rx [0x85, 0x1A, 0x01, 0x02, 0x03, 0x04] = .instr (.rxBatteryStatus (rev2 5) [0x04030201]) ∧
    decode .rx [0x86, 0x1A, 0x01, 0x02, 0x03, 0x04] = .instr (.rxAlert (rev2 5) [0x04030201]) ∧
    decode .rx [0x87, 0x1A, 0x01, 0x02, 0x03, 0x04] = .instr (.rxGetCountryInfo (rev2 5) [0x04030201]) ∧
    decode .rx [0x88, 0x1A, 0x01, 0x02, 0x03, 0x04] = .instr (.rxEnterUsb (rev2 5) [0x04030201]) := by decide

/-- R96, the rest of the DATA table and the catch-all. -/
theorem test_decode_data_high :
    decode .rx [0x89, 0x1A, 0x01, 0x02, 0x03, 0x04] = .instr (.rxDReserved9 (rev2 5) [0x04030201]) ∧
    decode .rx [0x8A, 0x1A, 0x01, 0x02, 0x03, 0x04] = .instr (.rxDReserved10 (rev2 5) [0x04030201]) ∧
    decode .rx [0x8B, 0x1A, 0x01, 0x02, 0x03, 0x04] = .instr (.rxDReserved11 (rev2 5) [0x04030201]) ∧
    decode .rx [0x8C, 0x1A, 0x01, 0x02, 0x03, 0x04] = .instr (.rxDReserved12 (rev2 5) [0x04030201]) ∧
    decode .rx [0x8D, 0x1A, 0x01, 0x02, 0x03, 0x04] = .instr (.rxDReserved13 (rev2 5) [0x04030201]) ∧
    decode .rx [0x8E, 0x1A, 0x01, 0x02, 0x03, 0x04] = .instr (.rxDReserved14 (rev2 5) [0x04030201]) ∧
    decode .rx [0x8F, 0x1A, 0x01, 0x02, 0x03, 0x04] = .instr (.rxVendorDefined (rev2 5) [0x04030201]) ∧
    decode .rx [0x90, 0x10, 0x01, 0x02, 0x03, 0x04] = .instr (.rxDOther 16 (rev2 0) [0x04030201]) ∧
    decode .rx [0x9F, 0x10, 0x01, 0x02, 0x03, 0x04] = .instr (.rxDOther 31 (rev2 0) [0x04030201]) := by decide

/-- R97, header 0x9A80 + type: revision 2, id 5, one object. -/
theorem test_decode_ext_low :
    decode .rx [0x80, 0x9A, 0x01, 0x02, 0x03, 0x04] = .instr (.rxEReserved0 (rev2 5) [0x04030201]) ∧
    decode .rx [0x81, 0x9A, 0x01, 0x02, 0x03, 0x04]
      = .instr (.rxSourceCapabilitiesExtended (rev2 5) [0x04030201]) ∧
    decode .rx [0x82, 0x9A, 0x01, 0x02, 0x03, 0x04] = .instr (.rxStatus (rev2 5) [0x04030201]) ∧
    decode .rx [0x83, 0x9A, 0x01, 0x02, 0x03, 0x04] = .instr (.rxGetBatteryCap (rev2 5) [0x04030201]) ∧
    decode .rx [0x84, 0x9A, 0x01, 0x02, 0x03, 0x04] = .instr (.rxGetBatteryStatus (rev2 5) [0x04030201]) ∧
    decode .rx [0x85, 0x9A, 0x01, 0x02, 0x03, 0x04] = .instr (.rxBatteryCapabilities (rev2 5) [0x04030201]) ∧
    decode .rx [0x86, 0x9A, 0x01, 0x02, 0x03, 0x04] = .instr (.rxGetManufacturerInfo (rev2 5) [0x04030201]) ∧
    decode .rx [0x87, 0x9A, 0x01, 0x02, 0x03, 0x04] = .instr (.rxManufacturerInfo (rev2 5) [0x04030201]) ∧
    decode .rx [0x88, 0x9A, 0x01, 0x02, 0x03, 0x04] = .instr (.rxSecurityRequest (rev2 5) [0x04030201]) := by decide

/-- R97, the rest of the EXT table and the catch-all, one with no object. -/
theorem test_decode_ext_high :
    decode .rx [0x89, 0x9A, 0x01, 0x02, 0x03, 0x04] = .instr (.rxSecurityResponse (rev2 5) [0x04030201]) ∧
    decode .rx [0x8A, 0x9A, 0x01, 0x02, 0x03, 0x04] = .instr (.rxFirmwareUpdateRequest (rev2 5) [0x04030201]) ∧
    decode .rx [0x8B, 0x9A, 0x01, 0x02, 0x03, 0x04] = .instr (.rxFirmwareUpdateResponse (rev2 5) [0x04030201]) ∧
    decode .rx [0x8C, 0x9A, 0x01, 0x02, 0x03, 0x04] = .instr (.rxPpsStatus (rev2 5) [0x04030201]) ∧
    decode .rx [0x8D, 0x9A, 0x01, 0x02, 0x03, 0x04] = .instr (.rxCountryInfo (rev2 5) [0x04030201]) ∧
    decode .rx [0x8E, 0x9A, 0x01, 0x02, 0x03, 0x04] = .instr (.rxCountryCodes (rev2 5) [0x04030201]) ∧
    decode .rx [0x8F, 0x9A, 0x01, 0x02, 0x03, 0x04]
      = .instr (.rxSinkCapabilitiesExtended (rev2 5) [0x04030201]) ∧
    decode .rx [0x90, 0x80] = .instr (.rxEOther 16 (rev2 0) []) ∧
    decode .rx [0x9F, 0x90, 0x01, 0x02, 0x03, 0x04] = .instr (.rxEOther 31 (rev2 0) [0x04030201]) := by decide

/-- R99 with id 5 (spec/95_test_vectors.md, built headers). -/
theorem test_decode_tx :
    decode .tx [0x83, 0x0A] = .instr (.txAccept 5) ∧
    decode .tx [0x84, 0x0A] = .instr (.txReject 5) ∧
    decode .tx [0x87, 0x0A] = .instr (.txGetSourceCap 5) ∧
    decode .tx [0x90, 0x0A] = .instr (.txNotSupported 5) ∧
    decode .tx [0x94, 0x0A] = .instr (.txGetPpsStatus 5) ∧
    decode .tx [0x82, 0x1A] = .instr (.txRequest 5) ∧
    decode .tx [0x84, 0x1A] = .instr (.txSinkCapabilities 5) ∧
    decode .tx [0x8F, 0xEA] = .instr (.txSinkCapabilitiesExtended 5) := by decide

/-- A word that is no transmitted header, a command without its operands, and a frame without its objects. -/
theorem test_decode_rejects :
    decode .tx [0x81, 0x00] = .rejected .notTransmitted ∧ decode .cmd [0x09] = .rejected .truncated ∧
    decode .cmd [] = .rejected .truncated ∧ decode .rx [0x81, 0x10, 0x00] = .rejected .truncated := by decide

/-- Table words: a command, a received header, and one of the eight transmitted headers. -/
theorem test_decode_table_word :
    decodeTableWord 8 0x02 = some .tick ∧ decodeTableWord 16 0x1001 = some (.rxSourceCapabilities ⟨0, 0, 0, 0⟩ [0]) ∧
    decodeTableWord 16 0x0081 = some (.rxGoodCrc (rev2 0)) ∧ decodeTableWord 16 0x0A83 = some (.txAccept 5) := by decide
/-! ## One step each, from the vectors of spec/95_test_vectors.md -/

/-- P1 step 1. -/
theorem test_init_pps :
    let t := run (.init 0 9000 2000) (timed (asked State.reset [ans, ident 0x91, ans, ans, ans]) 1000 false)
    t.port.reply = [0] ∧ t.fr.ready = true ∧ t.fr.devId = 0x91 ∧ t.pl.ready = true ∧ t.pl.tPoll = 1000 ∧
    t.pe.ppsV = 450 ∧ t.pe.ppsI = 40 ∧ t.pl.ppsVNext = 0 := by decide

/-- P5 step 1: the target is staged. -/
theorem test_init_staged :
    let t := run (.init 0 4200 1000) (asked State.reset [ans, ident 0x91, ans, ans, ans])
    t.port.reply = [0] ∧ t.pe.ppsV = 250 ∧ t.pe.ppsI = 20 ∧ t.pl.ppsVNext = 210 ∧ t.pl.ppsINext = 20 := by decide

/-- P1 step 3: Source_Capabilities and the flushed Request; T_PPS_REQ is later than the vector's by T_GUARD_MS, as the
file says of a clock that moves inside `delay_ms`. -/
theorem test_tick_source_capabilities :
    let t := run .tick (timed (asked (offered { att with pl := { att.pl with waitSrcCap := true, tSrcCap := 1200 } }
      [] 450 40 0) (frameAnswers true l1Frame)) 1260 true)
    t.port.reply = [0] ∧ t.pe.selected = 2 ∧ t.pe.pdoCount = 3 ∧ t.pl.waitSrcCap = false ∧ t.pl.waitPsRdy = true ∧
    t.pl.reqPending = false ∧ t.pl.tPsRdy = 1260 ∧ t.pl.tPpsReq = 1262 ∧ txPushed t.env.calls
      = [0x12, 0x12, 0x12, 0x13, 0x86, 0x82, 0x10, 0x28, 0x84, 0x03, 0x30, 0xFF, 0x14, 0xFE, 0xA1] := by decide

/-- VQ20 and VQ21: the deadline across the clock's wrap, at 350 ms and at 351 ms. -/
theorem test_tick_deadline :
    let s : State := { att with pl := { att.pl with waitSrcCap := true, tSrcCap := 65400, tPoll := 200 } }
    (run .tick (timed (asked s [ans]) 214 false)).pl = s.pl ∧
    (run .tick (timed (asked s [ans]) 215 false)).pl = { s.pl with srcCapRetry := 1, tSrcCap := 215 } ∧
    sends .tick (timed (asked s [ans]) 215 false)
      = [0x12, 0x12, 0x12, 0x13, 0x82, 0x87, 0x00, 0xFF, 0x14, 0xFE, 0xA1] := by decide

/-- VQ37. -/
theorem test_isTrans :
    answer .isTrans { rdy with pl := { rdy.pl with waitPsRdy := true } } = [1] ∧
    answer .isTrans { rdy with pl := { rdy.pl with reqPending := true } } = [1] ∧
    answer .isTrans { rdy with pl := { rdy.pl with waitSrcCap := true } } = [0] := by decide

/-- P1 step 7. -/
theorem test_getters :
    let s : State := { rdy with pl := { rdy.pl with readyStatus := .pps, readyMv := 9000, readyMa := 2000 } }
    answer .getMv s = [0x28, 0x23, 0x00, 0x00] ∧ answer .getMa s = [0xD0, 0x07, 0x00, 0x00] ∧
    answer .getMw s = [0x50, 0x46, 0x00, 0x00] ∧ answer .getReady s = [2] := by decide

/-- VQ35: 4410 mW. -/
theorem test_getMw_4410 :
    answer .getMw { rdy with pl := { rdy.pl with readyStatus := .pps, readyMv := 4200, readyMa := 1050 } }
      = [0x3A, 0x11, 0x00, 0x00] := by decide

/-- VQ26: accepted, the selection changes and a Request is pending. -/
theorem test_reqPps :
    let t := run (.reqPps 5000 1500) (offered rdy l1 0 0 1)
    t.port.reply = [0, 1] ∧ t.pe.ppsV = 250 ∧ t.pe.ppsI = 30 ∧ t.pe.selected = 2 ∧ t.pl.reqPending = true := by decide

/-- VQ27 and VQ28: refused. -/
theorem test_reqPps_refused :
    answer (.reqPps 12000 1000) (offered rdy l1 0 0 1) = [0, 0] ∧
    answer (.reqPps 5000 13000) (offered rdy l1 0 0 1) = [0, 0] := by decide

/-- VQ30. -/
theorem test_reqOpt :
    let t := run (.reqOpt 1) (offered rdy l1 450 40 2)
    t.port.reply = [0] ∧ t.pe.powerOption = 1 ∧ t.pe.ppsV = 0 ∧ t.pe.selected = 1 ∧ t.pl.reqPending = true := by decide

/-- VF1 and VF2. -/
theorem test_frInit :
    (run .frInit (asked State.reset [ans, ident 0x91, ans, ans, ans])).fr
      = { Fr.reset with ready := true, devId := 0x91 } ∧
    answer .frInit (asked State.reset [ans, ident 0x00]) = [4] := by decide

/-- VF36: an initialisation of an Attached framer; the frame registers stay. -/
theorem test_frInit_again :
    let s : State := { att with fr := { att.fr with rxHdr := 0x3081, vbusSenseEn := false } }
    (run .frInit (asked s [ans, ident 0x91, ans, ans, ans])).fr
      = { Fr.reset with ready := true, devId := 0x91, rxHdr := 0x3081 } := by decide

/-- VF9 and VF11: an attach, and a tie. -/
theorem test_frPoll_attach :
    (run .frPoll (asked rdy (attachAnswers .rd1A5 .opn))).fr = att.fr ∧
    (run .frPoll (asked rdy (attachAnswers .rdUsb .rdUsb))).fr.ccSel = .none := by decide

/-- VF21: a frame of three objects and GoodCrcSent. -/
theorem test_frPoll_frame :
    let t := run .frPoll (asked att (frameAnswers true l1Frame))
    t.port.reply = [0x00, 0x0C] ∧ t.fr.rxToken = 0xE0 ∧ t.fr.rxHdr = 0x3081 ∧
    t.fr.rxObj = ⟨0x0001912C, 0x8B42D0C8, 0xC0DC213C, 0, 0, 0, 0⟩ ∧
    t.env.calls.map (·.call) = [.readStatus, .clearGcrcSent, .rxRead 3, .rxRead 16] := by decide

/-- VF17, and a non-zero operand other than 1 (R141). -/
theorem test_frSetVbusSense :
    (run (.frSetVbusSense 0) att).fr.vbusSenseEn = false ∧
    (run (.frSetVbusSense 0x80) { att with fr := { att.fr with vbusSenseEn := false } }).fr = att.fr := by decide

/-- The levels of P3: (0, 3). -/
theorem test_frReadCc : answer .frReadCc { att with fr := { att.fr with cc1 := .opn, cc2 := .rd3A0 } } = [0, 3] := by
  decide

theorem test_frReadVbus : answer .frReadVbus att = [1] ∧ answer .frReadVbus State.reset = [0] := by decide

theorem test_frReadId : answer .frReadId { att with fr := { att.fr with devId := 0x91 } } = [0x91] := by decide

/-- VF29. -/
theorem test_frTxFrame :
    sends (.frTxFrame 0x1082 [0x30038428]) (asked rdy [ans])
      = [0x12, 0x12, 0x12, 0x13, 0x86, 0x82, 0x10, 0x28, 0x84, 0x03, 0x30, 0xFF, 0x14, 0xFE, 0xA1] := by decide

/-- VF31: seven objects are 39 bytes, the count byte 0x9E. -/
theorem test_frTxFrame_seven :
    let bs := sends (.frTxFrame 0x7081 [1, 2, 3, 4, 5, 6, 7]) (asked rdy [ans])
    bs.length = 39 ∧ bs.getD 4 0 = 0x9E ∧ bs.getD 31 0 = 7 := by decide

/-- VF33 and VF34. -/
theorem test_frTxHardReset :
    (run .frTxHardReset (asked att [ans, ans])).env.calls.map (·.call) = [.sendHardReset, .delayMs 5, .pdReset] ∧
    answer .frTxHardReset (asked att [bad .write]) = [3] := by decide

/-- VF35. -/
theorem test_frGetRx :
    answer .frGetRx { att with fr := { att.fr with
        rxHdr := 0x3081
        rxObj := ⟨0x0001912C, 0x8B42D0C8, 0xC0DC213C, 0, 0, 0, 0⟩ } }
      = [0x81, 0x30, 0x2C, 0x91, 0x01, 0x00, 0xC8, 0xD0, 0x42, 0x8B, 0x3C, 0x21, 0xDC, 0xC0]
        ++ List.replicate 16 0 := by decide

/-- VN18. -/
theorem test_peInit : (run .peInit (numbered (offered rdy l1 450 40 2) 5)).pe = Pe.reset := by decide

/-- VN17: the list, the target and the selection are kept. -/
theorem test_peReset :
    (run .peReset { rdy with pe := { (numbered (offered rdy l1 450 40 2) 5).pe with curTable := .data, curIndex := 1 } }).pe
      = (offered rdy l1 450 40 2).pe := by decide

/-- VR13. -/
theorem test_peHandleMsg_source :
    let t := run (.peHandleMsg 0x3081 l1) (numbered (offered rdy [] 450 40 0) 2)
    t.port.reply = [1] ∧ t.pe.selected = 2 ∧ t.pe.pdoCount = 3 ∧ t.pe.srcPdo = Objs7.ofList l1 ∧
    answer .peRespond t = [1, 0x82, 0x14, 0x28, 0x84, 0x03, 0x30] := by decide

/-- VR26: the extended catch-all, and the reply. -/
theorem test_peHandleMsg_other :
    let t := run (.peHandleMsg 0xFFFF [0, 0, 0, 0, 0, 0, 0]) (numbered rdy 2)
    t.port.reply = [0] ∧ t.pe.curTable = .ext ∧ t.pe.curIndex = 16 ∧ answer .peRespond t = [1, 0x90, 0x04] := by decide

/-- VR36, and VR35: responding twice. -/
theorem test_peRespond :
    answer .peRespond rdy = [0] ∧
    answer .peRespond (run .peRespond (run (.peHandleMsg 0x0688 []) (numbered rdy 2)))
      = [1, 0x84, 0x14, 0x64, 0x90, 0x01, 0x00] := by decide

/-- R256 on L1 with PPS (450, 40), and a current one unit too high (VN7). -/
theorem test_peEvaluate :
    answer (.peEvaluate 450 40) (offered rdy l1 0 0 0) = [1, 2] ∧
    answer (.peEvaluate 450 61) (offered rdy l1 0 0 0) = [0, 0] := by decide

/-- VT2 and VT3. -/
theorem test_peCreate :
    answer .peCreateGetSrcCap (numbered rdy 7) = [0x87, 0x0E] ∧ answer .peCreateGetPpsStatus rdy = [0x94, 0x00] := by
  decide

/-- The Request object table of 2.1: a Fixed capability at index 4 of L2, and the empty list. -/
theorem test_peCreateRequest :
    answer .peCreateRequest (offered rdy l2 0 0 4) = [0x82, 0x10, 0xF4, 0xD1, 0x07, 0x50] ∧
    answer .peCreateRequest rdy = [0x82, 0x10, 0x00, 0x00, 0x00, 0x10] := by decide

/-- VN19: the eight options on L2. -/
theorem test_peSetPowerOption :
    ([0, 1, 2, 3, 4, 5, 6, 7].map fun o => (run (.peSetPowerOption o) (offered rdy l2 0 0 0)).pe.selected)
      = [0, 1, 2, 3, 5, 5, 5, 5] := by decide

/-- VN8 and VN10: bits [2:0] of the operand. -/
theorem test_peSetPowerOption_bits :
    let t := run (.peSetPowerOption 1) (offered rdy l1 450 40 2)
    t.port.reply = [1] ∧ t.pe.ppsV = 0 ∧ t.pe.selected = 1 ∧
    (run (.peSetPowerOption 0xF9) t).pe = t.pe ∧ answer (.peSetPowerOption 0xF9) t = [0] := by decide

/-- VN13 to VN15. -/
theorem test_peSelectPower :
    (run (.peSelectPower 1) (offered rdy l1 0 0 0)).pe.selected = 1 ∧
    answer (.peSelectPower 1) (offered rdy l1 0 0 0) = [1] ∧ answer (.peSelectPower 3) (offered rdy l1 0 0 0) = [0] ∧
    answer (.peSelectPower 255) (offered rdy l1 0 0 0) = [0] ∧
    answer (.peSelectPower 0) (offered rdy l1 0 0 0) = [0] := by decide

/-- VN1 and VN2. -/
theorem test_peSetPps :
    answer (.peSetPps 450 40 1) (offered rdy l1 0 0 0) = [1] ∧
    (run (.peSetPps 450 40 1) (offered rdy l1 0 0 0)).pe = (offered rdy l1 450 40 2).pe ∧
    answer (.peSetPps 450 40 1) (offered rdy l1 450 40 2) = [0] := by decide

/-- VN4 and VN5. -/
theorem test_peSetPps_strict :
    (run (.peSetPps 600 40 1) (offered rdy l1 400 40 2)).pe = (offered rdy l1 400 40 2).pe ∧
    (run (.peSetPps 600 40 0) (offered rdy l1 400 40 2)).pe = (offered rdy l1 600 40 0).pe := by decide

/-- VN16, and the Battery row of the capability table. -/
theorem test_peGetPowerInfo :
    answer (.peGetPowerInfo 2) (offered rdy l1 0 0 0) = [1, 3, 33, 0, 110, 0, 60, 0, 0, 0] ∧
    answer (.peGetPowerInfo 3) (offered rdy l1 0 0 0) = [0, 0, 0, 0, 0, 0, 0, 0, 0, 0] ∧
    answer (.peGetPowerInfo 5) (offered rdy l2 0 0 0) = [1, 1, 100, 0, 0x90, 0x01, 0, 0, 0x90, 0x01] := by decide

theorem test_peGetSelected : answer .peGetSelected (offered rdy l1 0 0 2) = [2] := by decide

/-- VR21 read back, and PE_GET_TARGET of 2.1. -/
theorem test_peGet :
    answer .peGetPpsStatus (run (.peHandleMsg 0xA08C [0x01C28004, 0x00000828]) rdy) = [0xC2, 0x01, 0x28, 0x08] ∧
    answer .peGetTarget (offered rdy l1 450 40 2) = [0x00, 0xC2, 0x01, 0x28] := by decide

/-- VX1. -/
theorem test_cmdReserved : run (.cmdReserved 0x0A) att = { att with port := ⟨[], [6]⟩ } := by decide

/-- VR1 to VR11, VR24, VR27 to VR29: the control messages' event and reply, with message id 2. -/
theorem test_rx_ctrl :
    ([Instr.rxGoodCrc (rev2 0), .rxAccept (rev2 1), .rxReject (rev2 1), .rxPsRdy (rev2 2), .rxGetSinkCap (rev2 3),
      .rxDrSwap (rev2 0), .rxPrSwap (rev2 0), .rxVconnSwap (rev2 0), .rxSoftReset (rev2 0),
      .rxCOther 23 (rev2 0), .rxPing (rev2 0), .rxWait (rev2 0), .rxNotSupported (rev2 0)].map fun i =>
        (answer i (numbered rdy 2), answer .peRespond (run i (numbered rdy 2))))
      = [([0], [0]), ([4], [0]), ([2], [0]), ([2], [0]), ([0], [1, 0x84, 0x14, 0x64, 0x90, 0x01, 0x00]),
         ([0], [1, 0x84, 0x04]), ([0], [1, 0x84, 0x04]), ([0], [1, 0x84, 0x04]), ([0], [1, 0x83, 0x04]),
         ([0], [1, 0x90, 0x04]), ([0], [1, 0x90, 0x04]), ([0], [1, 0x90, 0x04]), ([0], [1, 0x90, 0x04])] := by decide

/-- VR1 and VR4: the message id, and Reject under the other policy. -/
theorem test_rx_ctrl_state :
    (run (.rxGoodCrc (rev2 7)) (numbered rdy 7)).pe.msgId = 0 ∧
    answer (.rxReject (rev2 1)) { rdy with params := { rdy.params with rejectPolicy := .distinct } } = [0x10] := by decide

/-- The control entries of spec/30_encoding.md R95 that have no vector of their own: no event, Not_Supported. -/
theorem test_rx_ctrl_unnamed :
    ([Instr.rxCReserved0 (rev2 0), .rxGotoMin (rev2 0), .rxGetSourceCap (rev2 0), .rxDataReset (rev2 0),
      .rxDataResetComplete (rev2 0), .rxGetSourceCapExtended (rev2 0), .rxGetStatus (rev2 0), .rxFrSwap (rev2 0),
      .rxGetPpsStatus (rev2 0), .rxGetCountryCodes (rev2 0)].map fun i =>
        (answer i rdy, (run i rdy).pe.curIndex, answer .peRespond (run i rdy)))
      = [0, 2, 7, 14, 15, 17, 18, 19, 20, 21].map fun k => ([0], k, [1, 0x90, 0x00]) := by decide

/-- VR11: Get_Sink_Cap_Extended. -/
theorem test_rxGetSinkCapExtended :
    answer .peRespond (run (.rxGetSinkCapExtended (rev2 0)) (numbered rdy 2))
      = [1, 0x8F, 0xE4, 0x15, 0x80] ++ List.replicate 22 0 := by decide

/-- VR12 and VR15: the list is replaced whole. -/
theorem test_rxSourceCapabilities :
    let s := numbered (offered rdy [] 450 40 0) 2
    let t := run (.rxSourceCapabilities (rev2 0) [0x0001912C]) (run (.rxSourceCapabilities (rev2 0) l1) s)
    t.port.reply = [1] ∧ t.pe.pdoCount = 1 ∧ t.pe.srcPdo = Objs7.ofList [0x0001912C] ∧ t.pe.selected = 0 ∧
    answer .peRespond t = [1, 0x82, 0x14, 0x2C, 0xB1, 0x04, 0x10] := by decide

/-- VR19, VR20, VR25, VR30, VR31, and the rest of R96: BIST is silent, the others get Not_Supported. -/
theorem test_rx_data :
    ([Instr.rxDReserved0 (rev2 0) [0], .rxRequest (rev2 0) [0x1004B12C], .rxBist (rev2 0) [0x50000000],
      .rxSinkCapabilities (rev2 0) [0], .rxBatteryStatus (rev2 0) [0], .rxAlert (rev2 0) [0],
      .rxGetCountryInfo (rev2 0) [0], .rxEnterUsb (rev2 0) [0], .rxDReserved9 (rev2 0) [0], .rxDReserved10 (rev2 0) [0],
      .rxDReserved11 (rev2 0) [0], .rxDReserved12 (rev2 0) [0], .rxDReserved13 (rev2 0) [0],
      .rxDReserved14 (rev2 0) [0], .rxVendorDefined (rev2 0) [0xFF008001], .rxDOther 31 (rev2 0) [0]].map fun i =>
        (answer i rdy, (run i rdy).pe.curIndex, answer .peRespond (run i rdy)))
      = [0, 2, 3, 4, 5, 6, 7, 8, 9, 10, 11, 12, 13, 14, 15, 16].map fun k =>
        ([0], k, if k = 3 then [0] else [1, 0x90, 0x00]) := by decide

/-- VR21 and VR22. -/
theorem test_rxPpsStatus :
    let t := run (.rxPpsStatus (rev2 0) [0x01C28004, 0x00000828]) rdy
    t.port.reply = [8] ∧ t.pe.ppssV = 450 ∧ t.pe.ppssI = 40 ∧ t.pe.ppssFlags = 8 ∧
    (run (.rxPpsStatus (rev2 0) [0x01C28004]) t).pe.ppssI = 0 := by decide

/-- VR26, VR32, VR33, and the rest of R97. -/
theorem test_rx_ext :
    ([Instr.rxEReserved0 (rev2 0) [], .rxSourceCapabilitiesExtended (rev2 0) [], .rxStatus (rev2 0) [],
      .rxGetBatteryCap (rev2 0) [], .rxGetBatteryStatus (rev2 0) [], .rxBatteryCapabilities (rev2 0) [],
      .rxGetManufacturerInfo (rev2 0) [], .rxManufacturerInfo (rev2 0) [], .rxSecurityRequest (rev2 0) [],
      .rxSecurityResponse (rev2 0) [], .rxFirmwareUpdateRequest (rev2 0) [], .rxFirmwareUpdateResponse (rev2 0) [],
      .rxCountryInfo (rev2 0) [], .rxCountryCodes (rev2 0) [], .rxSinkCapabilitiesExtended (rev2 0) [0],
      .rxEOther 16 (rev2 0) []].map fun i => (answer i rdy, (run i rdy).pe.curIndex, answer .peRespond (run i rdy)))
      = [0, 1, 2, 3, 4, 5, 6, 7, 8, 9, 10, 11, 13, 14, 15, 16].map fun k => ([0], k, [1, 0x90, 0x00]) := by decide

/-- Built headers of 2.1, message id 5: the header is the state's id, not the word's. -/
theorem test_tx :
    ([Instr.txAccept 0, .txReject 0, .txGetSourceCap 0, .txNotSupported 0, .txGetPpsStatus 0].map fun i =>
        answer i (numbered rdy 5))
      = [[0x83, 0x0A], [0x84, 0x0A], [0x87, 0x0A], [0x90, 0x0A], [0x94, 0x0A]] := by decide

/-- VT5, VT7 and VT11. -/
theorem test_tx_objects :
    answer (.txRequest 0) (numbered (offered rdy l1 450 40 2) 1) = [0x82, 0x12, 0x28, 0x84, 0x03, 0x30] ∧
    answer (.txSinkCapabilities 0) (numbered rdy 1) = [0x84, 0x12, 0x64, 0x90, 0x01, 0x00] ∧
    answer (.txSinkCapabilitiesExtended 0) rdy = [0x8F, 0xE0, 0x15, 0x80] ++ List.replicate 22 0 := by decide

/-- 20_memory.md R62: a reset of the transceiver, "to defaults", unties the pin; 00_scope.md R15: a delay takes its time. -/
theorem test_transport :
    ccTied .none [⟨.setCc .cc1, none⟩] = .cc1 ∧ ccTied .none [⟨.setCc .cc1, none⟩, ⟨.swReset, none⟩] = .none ∧
    ccTied .none [⟨.setCc .cc1, none⟩, ⟨.swReset, some .write⟩] = .cc1 ∧ (rdy.delay 5).env.now = 5 := by decide

/-! ## Witnesses: states and operands that meet the hypotheses of the statements together -/

/-- DecodeOfEncode, at the ends of each check's range. -/
theorem witness_DecodeOfEncode :
    ([Instr.frTxFrame 0x0087 [], .frTxFrame 0x7081 [1, 2, 3, 4, 5, 6, 7], .cmdReserved 0, .cmdReserved 0xFF,
      .rxCOther 23 (rev2 7), .rxCOther 31 (rev2 0), .rxDOther 16 (rev2 0) [1], .rxEOther 31 (rev2 0) (List.replicate 7 9),
      .rxPpsStatus (rev2 0) [], .rxBist ⟨3, 7, 1, 1⟩ (List.replicate 7 5)].all fun i =>
        i.wf && (decodeAt otherCodes i.format (encodeAt otherCodes i) == .instr i)) = true ∧
    otherCodes.wf = true ∧ defaultCodes.wf = true := by decide

/-- 00_scope.md R9, 93_implementation_defined.md G1: "a different code moves a named entry to another index". The built
Accept has the code 4, a received type 4 is Accept and a received type 12 of the EXT table Country_Info. -/
theorem test_other_codes :
    answer (.txAccept 0) (recoded rdy) = [0x84, 0x00] ∧ encodeAt otherCodes (.rxAccept (rev2 0)) = [0x84, 0x00] ∧
    decodeAt otherCodes .rx [0x84, 0x00] = .instr (.rxAccept (rev2 0)) ∧
    answer (.peHandleMsg 0x0084 []) (recoded rdy) = [0x04] ∧ answer (.peHandleMsg 0x808C []) (recoded rdy) = [0x00] ∧
    (run (.peHandleMsg 0x808D []) (recoded rdy)).pe.curIndex = 13 ∧
    answer .peRespond (run (.peHandleMsg 0x1081 [0x0001912C]) (recoded rdy)) = [1, 0x83, 0x10, 0x2C, 0xB1, 0x04, 0x10] ∧
    ({ defaultCodes with data := [] } : TypeCodes).wf = false := by decide

/-- EncodeOfDecode: a byte string with more behind its instruction. -/
theorem witness_EncodeOfDecode :
    decodeAt defaultCodes .cmd [0x09, 0x01, 0x77] = .instr (.reqOpt 1) ∧
    [0x09, 0x01, 0x77] = encodeAt defaultCodes (.reqOpt 1) ++ [0x77] ∧ defaultCodes.wf = true := by decide

/-- StepRunsTheDecodedInstruction: a command waiting, none waiting, and a word placed. -/
theorem witness_StepRunsTheDecodedInstruction :
    (queued rdy [cmd [0x03]]).port.inbox = cmd [0x03] :: [] ∧ (cmd [0x03]).overlaps = false ∧
    decodeAt rdy.params.codes (cmd [0x03]).fmt (cmd [0x03]).bytes = .instr .isTrans ∧ State.reset.port.inbox = [] ∧
    State.reset.params.codes.wf = true ∧ (recoded State.reset).params.codes.wf = true ∧
    decodeTableWord 16 0x0081 = some (.rxGoodCrc (rev2 0)) := by decide

theorem test_step_runs : step (queued rdy [cmd [0x03], cmd [0x02]]) = .next { queued rdy [cmd [0x02]] with
    port := ⟨[cmd [0x02]], [0]⟩ } := rfl

theorem test_withFetchWord : step (State.reset.withFetchWord 16 0x0081)
    = .next { State.reset with
        pe := { Pe.reset with msgId := 1, curTable := .ctrl, curIndex := 1 }, port := ⟨[], [0]⟩ } := rfl

/-- The same with other type codes: the word is the default table's, the bytes the machine's. -/
theorem test_withFetchWord_recoded : step ((recoded State.reset).withFetchWord 16 0x0003)
    = exec (.rxAccept ⟨0, 0, 0, 0⟩) (recoded State.reset) := rfl

/-- OverlappingCommandRefused, and what the two other refusals of step are for. -/
theorem witness_OverlappingCommandRefused :
    (queued rdy [{ cmd [0x02] with overlaps := true }]).port.inbox = { cmd [0x02] with overlaps := true } :: [] ∧
    ({ cmd [0x02] with overlaps := true } : Stimulus).overlaps = true := by decide

theorem test_step_refuses :
    step (queued rdy [{ cmd [0x02] with overlaps := true }]) = .refused .reentrantCommand ∧
    step (queued rdy [cmd [0x09]]) = .refused .truncatedInput ∧
    step (queued rdy [{ cmd [0x81, 0x00] with fmt := .tx }]) = .refused .notATransmittedHeader := ⟨rfl, rfl, rfl⟩

/-- ReservedOpCodesAreBadCommands, at both ends of each range. -/
theorem witness_ReservedOpCodes :
    ∀ op ∈ ([0, 0x0A, 0x0F, 0x19, 0x1F, 0x2F, 0xFF] : List Byte),
      (op = 0 ∨ 0x0A ≤ op.toNat ∧ op.toNat ≤ 0x0F ∨ 0x19 ≤ op.toNat ∧ op.toNat ≤ 0x1F ∨ 0x2F ≤ op.toNat) ∧
      decode .cmd [op] = .instr (.cmdReserved op) := by decide

/-- EveryStepKeepsTheInvariants, EveryStepKeepsParametersAndTrace: a step that stores a capability list. -/
theorem witness_EveryStepKeeps :
    let s := queued (offered att l1 450 40 2) [{ cmd [0x81, 0x10, 0x2C, 0x91, 0x01, 0x00] with fmt := .rx }]
    s.params.codes.wf = true ∧ s.inv = true ∧ ∃ t, step s = .next t ∧ t.inv = true ∧ t.pe.pdoCount = 1 := by
  exact ⟨by decide, by decide, _, rfl, by decide, by decide⟩

/-- A state in which PS_RDY is awaited on an Augmented selection, and the frame is in the FIFO. -/
def awaiting : State :=
  let s := offered att l1 450 40 2
  timed (asked { s with pl := { s.pl with waitPsRdy := true, tPsRdy := 1260 } }
    (slow (frameAnswers false [0xE0, 0x86, 0x04]))) 1400 true

/-- PpsOnlyByTickOnAnAugmentedSelection. -/
theorem witness_PpsOnlyByTick :
    ∃ t, exec .tick awaiting = .next t ∧ awaiting.pl.readyStatus ≠ .pps ∧ t.pl.readyStatus = .pps ∧
      t.pl.readyMv = 9000 ∧ t.pl.readyMa = 2000 ∧ t.fr.vbusSenseEn = false :=
  ⟨_, rfl, by decide, by decide, by decide, by decide, by decide⟩

/-- FrInitRule, a state for each clause. -/
theorem witness_FrInitRule :
    ((asked rdy [bad .write]).env.answerAt 0).fail = some .write ∧ (asked rdy [ans, bad .write]).succeeds 0 = true ∧
    (asked rdy [ans, bad .write]).succeeds 1 = false ∧ idRecognised rdy.params 0x7F = false ∧
    idRecognised rdy.params 0x80 = true ∧
    (let s := asked rdy [ans, ident 0x80, bad .read];
      s.succeeds 1 = true ∧ (s.env.answerAt 2).fail = some .read ∧ answer .frInit s = [2]) ∧
    (let s := asked rdy [ans, ident 0x80, ans, bad .write];
      s.succeeds 2 = true ∧ (s.env.answerAt 3).fail = some .write ∧ answer .frInit s = [3]) ∧
    (let s := asked rdy [ans, ident 0x80, ans, ans, bad .write];
      s.succeeds 3 = true ∧ (s.env.answerAt 4).fail = some .write ∧ (run .frInit s).fr.ready = false) ∧
    (let s := asked rdy [ans, ident 0x80, ans, ans, ans];
      s.succeeds 2 = true ∧ s.succeeds 3 = true ∧ s.succeeds 4 = true ∧ (run .frInit s).fr.ready = true) := by decide

/-- FrGate and the NotInitialised clauses of the other statements. -/
theorem witness_FrGate : State.reset.fr.ready = false ∧ State.reset.pl.ready = false := by decide

/-- PollOutcomes: a state for each event byte and for Busy. -/
theorem witness_PollOutcomes :
    ([asked rdy [stat false false false true], asked rdy (attachAnswers .rd1A5 .opn),
      asked att [stat false false false true, ans, ans], asked att (frameAnswers false [0xE0, 0x81, 0x00]),
      asked att [stat true false true true, ans], asked att (frameAnswers true [0xE0, 0x81, 0x00]),
      asked rdy ([stat true false false true, ans, lvl .rd1A5, lvl .rd3A0])].map (answer .frPoll))
      = [[0, 0], [0, 1], [0, 2], [0, 4], [0, 8], [0, 12], [1, 0]] := by decide

/-- PollWithoutVbus, each arm. -/
theorem witness_PollWithoutVbus :
    rdy.fr.ready = true ∧ (asked rdy [bad .write]).succeeds 0 = false ∧ (asked att [bad .read]).succeeds 0 = false ∧
    (let s := asked rdy [stat false false false true];
      s.succeeds 0 = true ∧ s.fr.attach = .unattached ∧ (s.env.answerAt 0).status.vbusOk = false) := by decide

/-- PollAttach, with a millisecond for each primitive. -/
theorem witness_PollAttach :
    let s := asked rdy (slow (attachAnswers .opn .rd3A0))
    s.fr.ready = true ∧ s.fr.attach = .unattached ∧ (s.env.answerAt 0).status.vbusOk = true ∧
    (∀ k < 16, s.succeeds k = true) ∧ (∀ k < 6, (s.env.answerAt (2 + k)).level = .opn) ∧
    (∀ k < 6, (s.env.answerAt (8 + k)).level = .rd3A0) := by decide

/-- PollAttach and PollBusy, the failing primitives: power(Measure); the first and the last sample of each pin;
clear_interrupts; set_cc. -/
theorem witness_PollAttach_fails :
    let s (n : Nat) := asked rdy (slow ((attachAnswers .rd1A5 .opn).take n ++ [bad .read]));
    (∀ n ∈ [1, 2, 7, 8, 13, 14, 15],
      (∀ k < n, (s n).succeeds k = true) ∧ ((s n).env.answerAt n).fail = some .read ∧
      ((s n).env.answerAt 0).status.vbusOk = true ∧ answer .frPoll (s n) = [2, 0] ∧
      (run .frPoll (s n)).fr = { rdy.fr with vbusLast := true } ∧
      ((run .frPoll (s n)).env.calls.filter (·.fail.isSome)).length = 1) ∧
    (∀ k < 6, ((s 15).env.answerAt (2 + k)).level = .rd1A5) ∧ (∀ k < 6, ((s 15).env.answerAt (8 + k)).level = .opn) ∧
    [2, 7, 8, 13, 14, 15].map (fun n => (run .frPoll (s n)).env.calls.length) = [3, 13, 14, 24, 25, 26] := by decide

theorem test_attach_calls :
    let s := asked rdy (slow (attachAnswers .opn .rd3A0))
    (run .frPoll s).env.calls.map (·.call) = [.readStatus, .power .measure] ++ sampleCalls s.params .cc1 5
      ++ sampleCalls s.params .cc2 5 ++ [.clearInterrupts, .setCc .cc2] ∧
    (run .frPoll s).env.now = 26 ∧ answer .frPoll s = [0, 1] ∧
    (run .frPoll s).fr = { rdy.fr with
      vbusLast := true, cc1 := .opn, cc2 := .rd3A0, ccSel := .cc2, attach := .attached } := by decide

/-- The answers of VF13, and of VF14 cut to its last sample. -/
def busyAnswers (first : Bool) (j : Nat) : List XAnswer :=
  slow ([stat true false false true, ans] ++ (if first then [] else List.replicate 6 (lvl .rd1A5))
    ++ List.replicate (j + 1) (lvl .opn) ++ [lvl .rd3A0])

/-- PollBusy: the first and the last resample of each pin. -/
theorem witness_PollBusy :
    (∀ j ∈ [0, 4], let s := asked rdy (busyAnswers true j)
      (s.env.answerAt 0).status.vbusOk = true ∧ (∀ k < 4 + j, s.succeeds k = true) ∧
      (∀ k < j, (s.env.answerAt (3 + k)).level = (s.env.answerAt 2).level) ∧
      (s.env.answerAt (3 + j)).level ≠ (s.env.answerAt 2).level) ∧
    (∀ j ∈ [0, 4], let s := asked rdy (busyAnswers false j)
      (s.env.answerAt 0).status.vbusOk = true ∧ (∀ k < 10 + j, s.succeeds k = true) ∧
      (∀ k < 5, (s.env.answerAt (3 + k)).level = (s.env.answerAt 2).level) ∧
      (∀ k < j, (s.env.answerAt (9 + k)).level = (s.env.answerAt 8).level) ∧
      (s.env.answerAt (9 + j)).level ≠ (s.env.answerAt 8).level) := by decide

theorem test_busy_calls :
    (let s := asked rdy (busyAnswers false 4);
      (run .frPoll s).env.calls.map (·.call) = [.readStatus, .power .measure] ++ sampleCalls s.params .cc1 5
        ++ sampleCalls s.params .cc2 5 ∧ answer .frPoll s = [1, 0] ∧
      (run .frPoll s).fr = { rdy.fr with vbusLast := true }) ∧
    (let s := asked rdy (busyAnswers true 0);
      (run .frPoll s).env.calls.map (·.call) = [.readStatus, .power .measure] ++ sampleCalls s.params .cc1 1 ∧
      answer .frPoll s = [1, 0]) := by decide

/-- PollDetach, a state for each clause. -/
theorem witness_PollDetach :
    let s (as : List XAnswer) := asked att (stat false false false true :: as);
    (s []).fr.vbusSenseEn = true ∧ (s []).succeeds 0 = true ∧ ((s []).env.answerAt 0).status.vbusOk = false ∧
    ((s [bad .write]).env.answerAt 1).fail = some .write ∧ (s [ans, bad .write]).succeeds 1 = true ∧
    ((s [ans, bad .write]).env.answerAt 2).fail = some .write ∧ (s [ans, ans]).succeeds 2 = true := by decide

/-- PollLatchedFlags, a state for each clause; sensing off stands for VBUS present. -/
theorem witness_PollLatchedFlags :
    let s (x : XAnswer) (as : List XAnswer) := asked att (x :: as);
    ((s (stat true true true false) [ans]).env.answerAt 0).status.iHardReset = true ∧
    ((s (stat true true true false) [bad .write]).env.answerAt 1).fail = some .write ∧
    ((s (stat true false true true) [ans]).env.answerAt 0).status.iGcrcSent = true ∧
    (s (stat true false true true) [ans]).succeeds 1 = true ∧
    ((s (stat true false true true) [bad .read]).env.answerAt 1).fail = some .read ∧
    (s (stat true false false true) []).succeeds 0 = true ∧
    ({ att with fr := { att.fr with vbusSenseEn := false } } : State).fr.vbusSenseEn = false := by decide

/-- PollReceivesOneFrame: no object and no GoodCrcSent; seven objects and GoodCrcSent. -/
theorem witness_PollReceivesOneFrame :
    (let s := asked att (slow (frameAnswers false [0xE0, 0x81, 0x00]));
      (∀ j < 3, s.succeeds j = true) ∧ s.bytesAt 1 3 = [0xE0, 0x81, 0x00] ∧
      s.bytesAt 2 4 = [0xDE, 0xAD, 0xBE, 0xEF] ∧ (0x00 : Byte).toNat / 16 % 8 = 0) ∧
    (let s := asked att (slow (frameAnswers true (0xE0 :: 0x8F :: 0xF0 :: List.replicate 28 1)));
      (∀ j < 4, s.succeeds j = true) ∧ s.bytesAt 2 3 = [0xE0, 0x8F, 0xF0] ∧
      s.bytesAt 3 32 = List.replicate 28 1 ++ [0xDE, 0xAD, 0xBE, 0xEF] ∧ (0xF0 : Byte).toNat / 16 % 8 = 7) := by decide

theorem test_receive_seven :
    let s := asked att (slow (frameAnswers true (0xE0 :: 0x8F :: 0xF0 :: List.replicate 28 1)))
    run .frPoll s = State.reply
      { s.after [.readStatus, .clearGcrcSent, .rxRead 3, .rxRead 32] with
        fr := { s.fr with
          vbusLast := true
          rxToken := 0xE0
          rxHdr := 0xF08F
          rxObj := Objs7.ofList (List.replicate 7 0x01010101) } } [0, 12] := by decide

/-- PollDropsAFrameItCannotRead: the first and the second read fail; the flush may fail too. -/
theorem witness_PollDropsAFrame :
    (let s := asked att [stat true false true false, ans, bad .read, bad .write];
      (∀ j < 2, s.succeeds j = true) ∧ s.succeeds 2 = false ∧ answer .frPoll s = [2, 0]) ∧
    (let s := asked att [stat true false false false, fifo [0xE0, 0x81, 0x30], bad .read, ans];
      s.succeeds 0 = true ∧ s.succeeds 1 = true ∧ s.bytesAt 1 3 = [0xE0, 0x81, 0x30] ∧ s.succeeds 2 = false ∧
      (run .frPoll s).env.calls.map (·.call) = [.readStatus, .rxRead 3, .rxRead 16, .rxFlush]) := by decide

/-- TxFrameRule: no object, seven objects, more objects than the count, and each outcome. -/
theorem witness_TxFrameRule :
    rdy.fr.ready = true ∧ (0x0087 : Half).toNat / 2 ^ 12 % 8 ≤ ([] : List Obj).length ∧
    (0x7081 : Half).toNat / 2 ^ 12 % 8 ≤ ([1, 2, 3, 4, 5, 6, 7] : List Obj).length ∧
    (0x1082 : Half).toNat / 2 ^ 12 % 8 ≤ ([1, 2] : List Obj).length ∧
    (asked rdy [ans]).succeeds 0 = true ∧ (asked rdy [bad .read]).succeeds 0 = false := by decide

/-- TxHardResetRule. -/
theorem witness_TxHardResetRule :
    rdy.fr.ready = true ∧ ((asked rdy [bad .read]).env.answerAt 0).fail = some .read ∧
    (asked rdy [ans, bad .write]).succeeds 0 = true ∧ ((asked rdy [ans, bad .write]).env.answerAt 1).fail = some .write ∧
    (asked rdy [ans, ans]).succeeds 1 = true := by decide

/-- HandleMsgRunsTheReceivedMessage: a header of each class. -/
theorem witness_HandleMsg :
    ([] : List Obj).length = (0x0081 : Half).toNat / 2 ^ 12 % 8 ∧ l1.length = (0x3081 : Half).toNat / 2 ^ 12 % 8 ∧
    ([1, 2, 3, 4, 5, 6, 7] : List Obj).length = (0xFFFF : Half).toNat / 2 ^ 12 % 8 ∧
    rxInstr 0x0081 [] = .rxGoodCrc (rev2 0) ∧ rxInstr 0x3081 l1 = .rxSourceCapabilities (rev2 0) l1 ∧
    rxInstr (toTableCode otherCodes 0x0084) [] = .rxAccept (rev2 0) ∧ rdy.params.codes.wf = true ∧
    rdy.params.codes = defaultCodes ∧ (recoded rdy).params.codes.wf = true := by decide

/-- The clauses of the received messages over PE_HANDLE_MSG's headers: a control header (with bits 5 and 8 set, too), a
data header with one and with seven objects, an extended one with none and with seven, and both ends of a catch-all. -/
theorem witness_ReceivedHeaders :
    (0x0080 : Half).toNat % 2 ^ 5 = 0 ∧ (0x0080 : Half).toNat / 2 ^ 12 = 0 ∧
    (0x0FF4 : Half).toNat % 2 ^ 5 = 20 ∧ (0x0FF4 : Half).toNat / 2 ^ 12 = 0 ∧
    (0x0281 : Half).toNat % 2 ^ 5 = 1 ∧ (0x0281 : Half).toNat / 2 ^ 12 = 0 ∧
    (0x0096 : Half).toNat % 2 ^ 5 = 22 ∧ (0x0096 : Half).toNat / 2 ^ 12 = 0 ∧
    (0x1080 : Half).toNat % 2 ^ 5 = 0 ∧ (0x1080 : Half).toNat / 2 ^ 12 = ([0] : List Obj).length ∧
    (0x708D : Half).toNat % 2 ^ 5 = 13 ∧ (0x708D : Half).toNat / 2 ^ 12 = (List.replicate 7 (0 : Obj)).length ∧
    (0x808C : Half).toNat % 2 ^ 5 = 12 ∧ (0x808C : Half).toNat / 2 ^ 12 = 8 + ([] : List Obj).length ∧
    (0xF08B : Half).toNat % 2 ^ 5 = 11 ∧ (0xF08B : Half).toNat / 2 ^ 12 = 8 + (List.replicate 7 (0 : Obj)).length ∧
    min ((0x0097 : Half).toNat % 2 ^ 5) 23 = 23 ∧ min ((0x009F : Half).toNat % 2 ^ 5) 23 = 23 ∧
    min ((0x1090 : Half).toNat % 2 ^ 5) 16 = 16 ∧ min ((0x909F : Half).toNat % 2 ^ 5) 16 = 16 ∧
    min ((0x0095 : Half).toNat % 2 ^ 5) 23 = 21 ∧ min ((0x108F : Half).toNat % 2 ^ 5) 16 = 15 := by decide

/-- The statements about received and built messages: codes that are well-formed, the default ones and others, the type
codes they give, both policies, and the block's length. -/
theorem witness_Policies :
    rdy.params.rejectPolicy = .asPsRdy ∧
    ({ rdy with params := { rdy.params with rejectPolicy := .distinct } } : State).params.rejectPolicy = .distinct ∧
    rdy.params.sinkCapExtBlock.length = 22 ∧ rdy.params.codes.wf = true ∧ (recoded rdy).params.codes.wf = true ∧
    typeCode rdy.params .ctrl 3 = 3 ∧ typeCode (recoded rdy).params .ctrl 3 = 4 ∧
    typeCode (recoded rdy).params .ctrl 23 = 23 ∧ codeRow (recoded rdy).params .data 3 = 2 := by decide

/-- SourceCapabilitiesRule: one and seven objects. -/
theorem witness_SourceCapabilitiesRule :
    1 ≤ ([0] : List Obj).length ∧ ([0] : List Obj).length ≤ 7 ∧ 1 ≤ (List.replicate 7 (0 : Obj)).length ∧
    (List.replicate 7 (0 : Obj)).length ≤ 7 := by decide

/-- RequestObjectRule: the ends of the range, an Augmented capability and another. -/
theorem witness_RequestObjectRule :
    (offered rdy l1 450 40 2).pe.selected.toNat ≤ 6 ∧
    ((offered rdy l1 450 40 2).pe.srcPdo.get 2).toNat / 2 ^ 30 = 3 ∧
    (offered rdy (List.replicate 7 0x0001912C) 0 0 6).pe.selected.toNat ≤ 6 ∧
    ((offered rdy (List.replicate 7 0x0001912C) 0 0 6).pe.srcPdo.get 6).toNat / 2 ^ 30 ≠ 3 ∧
    answer .peCreateRequest (offered rdy (List.replicate 7 0x0001912C) 0 0 6)
      = [0x82, 0x10, 0x2C, 0xB1, 0x04, 0x70] := by decide

/-- s with a current entry. -/
def current (t : Table) (k : BitVec 5) : State := { rdy with pe := { rdy.pe with curTable := t, curIndex := k } }

/-- RespondFollowsTheTable: every kind of entry, and the last index of each table. -/
theorem witness_RespondFollowsTheTable :
    ([current .none 0, current .ctrl 1, current .ctrl 8, current .ctrl 22, current .ctrl 11, current .ctrl 13,
      current .data 1, current .data 3, current .ext 12, current .ctrl 23, current .data 16, current .ext 16].all fun s =>
        s.pe.currentLegal) = true := by decide

/-- EvaluatorProperties: a fit at both bounds of the voltage and of the current; none fits; none is within; an empty
list. -/
theorem witness_EvaluatorProperties :
    answer (.peEvaluate 165 60) (offered rdy l1 0 0 0) = [1, 2] ∧
    answer (.peEvaluate 550 60) (offered rdy l1 0 0 0) = [1, 2] ∧
    answer (.peEvaluate 164 60) (offered rdy l1 0 0 0) = [0, 0] ∧
    answer (.peEvaluate 551 60) (offered rdy l1 0 0 0) = [0, 0] ∧
    answer (.peEvaluate 0 0) (offered rdy [0x000641F4, 0x000641F4] 0 0 0) = [0, 0] ∧
    answer (.peEvaluate 0 0) (offered rdy [0x00019C2C, 0x00019C2C, 0x0001A02C] 0 0 0) = [0, 1] ∧
    answer (.peEvaluate 165 60) rdy = [0, 0] ∧ rdy.params.powerOptions[rdy.pe.powerOption.toNat]? = some ⟨25, true, false⟩ ∧
    (∀ o : BitVec 3, rdy.params.powerOptions[o.toNat]?.isSome = true) := by decide

/-- PowerInfoRule: an index of each type, and the first one outside the list. -/
theorem witness_PowerInfoRule :
    let s := offered rdy l2 0 0 0
    (0 : Byte).toNat < s.pe.pdoCount.toNat ∧ (s.pe.srcPdo.get 0).toNat / 2 ^ 30 = 0 ∧
    (s.pe.srcPdo.get 5).toNat / 2 ^ 30 = 1 ∧ ((offered rdy l1 0 0 0).pe.srcPdo.get 1).toNat / 2 ^ 30 = 2 ∧
    ((offered rdy l1 0 0 0).pe.srcPdo.get 2).toNat / 2 ^ 30 = 3 ∧ s.pe.pdoCount.toNat ≤ (6 : Byte).toNat := by decide

/-- SetPowerOptionAndSelectPower, SetPpsRule: an index inside and the first outside; strict refused; each way through. -/
theorem witness_TargetOperations :
    (2 : Byte).toNat < (offered rdy l1 0 0 0).pe.pdoCount.toNat ∧
    (offered rdy l1 0 0 0).pe.pdoCount.toNat ≤ (3 : Byte).toNat ∧
    answer (.peEvaluate 600 40) (offered rdy l1 0 0 0) = [0, 0] ∧
    answer (.peEvaluate 450 40) (offered rdy l1 0 0 0) = [1, 2] := by decide

/-- RestatingTheTargetIsNoChange: an empty list in a state that meets the invariants. -/
theorem witness_Restating : rdy.inv = true ∧ rdy.pe.pdoCount = 0 := by decide

/-- TickGateAndIdleTick: nothing to do, at the last millisecond before a poll. -/
theorem witness_IdleTick :
    let s := timed { rdy with pl := { rdy.pl with tPoll := 1000 } } 1100 false
    s.pl.ready = true ∧ s.quiet = true ∧ s.pollDue = false ∧ s.phaseA s 0 :=
  ⟨by decide, by decide, by decide, State.phaseA_quiet (by decide)⟩

/-- InitRule: a framer that answers, with each kind of target, and one that does not. -/
theorem witness_InitRule :
    (let s := asked att (slow [ans, ident 0x91, ans, ans, ans]);
      (∀ k < 5, s.succeeds k = true) ∧ idRecognised s.params (s.env.answerAt 1).byte = true ∧
      (run (.init 1 0 1000) s).pe = { Pe.reset with powerOption := 1 } ∧
      (run (.init 0 19 1000) s).pe = { Pe.reset with ppsI := 20 } ∧
      (run (.init 0 4999 65535) s).pe = { Pe.reset with ppsV := 250, ppsI := 30 } ∧
      (run (.init 0 4999 65535) s).pl = { Pl.reset with ready := true, tPoll := 5, ppsVNext := 249, ppsINext := 30 } ∧
      (run (.init 0 5000 50) s).pl = { Pl.reset with ready := true, tPoll := 5 }) ∧
    (let s := asked att [ans, ident 0x00];
      answer .frInit s = [4] ∧ (run (.init 0 9000 2000) s).pl.ready = false) := by decide

/-- A state past the source-capability deadline, with a number of retries spent, the transport's answers, and the alert
line. -/
def capLate (r : BitVec 2) (as : List XAnswer) (alert : Bool) : State :=
  timed (asked { att with
    pe := { att.pe with msgId := 3, curTable := .data, curIndex := 1 }
    pl := { att.pl with
      waitSrcCap := true
      srcCapRetry := r
      tSrcCap := 2253
      tPoll := 2600
      readyStatus := .typical
      readyMv := 5000 } } (slow as)) 2604 alert

/-- SourceCapTimeout: the last retry, written and not, and the fourth timeout, each outcome of its hard reset. -/
theorem witness_SourceCapTimeout :
    (∀ s ∈ [capLate 2 [ans] false, capLate 2 [bad .write] false, capLate 3 [ans, ans] false,
        capLate 3 [bad .read] false, capLate 3 [ans, bad .write] false],
      s.pl.ready = true ∧ s.fr.ready = true ∧ s.capDue = true ∧
      (run .tick s).psRdyDue = false ∧ (run .tick s).sendDue = false ∧ (run .tick s).pollDue = false) ∧
    (capLate 2 [ans] false).pl.srcCapRetry.toNat < 3 ∧ (capLate 2 [ans] false).succeeds 0 = true ∧
    (capLate 2 [bad .write] false).succeeds 0 = false ∧ (run .tick (capLate 2 [bad .write] false)).pl.srcCapRetry = 3 ∧
    (capLate 3 [ans, ans] false).pl.srcCapRetry = 3 ∧ (capLate 3 [ans, ans] false).succeeds 1 = true ∧
    ((capLate 3 [bad .read] false).env.answerAt 0).fail = some .read ∧ answer .tick (capLate 3 [bad .read] false) = [2] ∧
    (run .tick (capLate 3 [bad .read] false)).pe.msgId = 0 ∧
    (run .tick (capLate 3 [bad .read] false)).pl.readyStatus = .notAvailable ∧
    ((capLate 3 [ans, bad .write] false).env.answerAt 1).fail = some .write ∧
    answer .tick (capLate 3 [ans, bad .write] false) = [3] := by decide

/-- SourceCapTimeout, what follows: Get_Source_Cap written and a poll that fails; not written and a poll that fails. -/
theorem witness_SourceCapTimeout_goesOn :
    answer .tick (capLate 0 [ans, bad .read] true) = [2] ∧ answer .tick (capLate 0 [bad .write, bad .read] true) = [3] ∧
    (run .tick (capLate 0 [ans, bad .read] true)).capDue = false ∧
    (run .tick (capLate 0 [bad .write, bad .read] true)).env.calls.length = 2 := by decide

/-- s with the framer not ready, as a host's failed FR_INIT leaves it. -/
def unready (s : State) : State := { s with fr := { s.fr with ready := false } }

/-- SourceCapTimeout and DueRequestIsSent, the framer not ready: no primitive, NotInitialised, the rest as ever. -/
theorem witness_NotReady :
    (∀ s ∈ [unready (capLate 1 [] false), unready (capLate 3 [] false)],
      s.pl.ready = true ∧ s.fr.ready = false ∧ s.capDue = true ∧ (run .tick s).psRdyDue = false ∧
      (run .tick s).sendDue = false ∧ (run .tick s).pollDue = false ∧ answer .tick s = [5] ∧
      (run .tick s).env.calls = []) ∧
    (run .tick (unready (capLate 1 [] false))).pl.srcCapRetry = 2 ∧
    (run .tick (unready (capLate 3 [] true))).pl.readyStatus = .notAvailable := by decide

/-- A poll that is not Busy settles at once. -/
theorem settlesAt_first {s : State} (h : answer .frPoll s ≠ [1, 0]) : s.settlesAt (run .frPoll s) := by
  unfold State.settlesAt
  cases s.params.nPollTries - 1 with
  | zero => rfl
  | succ n => exact ⟨run .frPoll s, rfl, by rw [if_neg (show ¬ (run .frPoll s).port.reply = [1, 0] from h)]⟩

/-- A poll that is Busy once settles at the second try. -/
theorem settlesAt_second {s : State} (hn : s.params.nPollTries = 3) (h : answer .frPoll s = [1, 0])
    (h2 : answer .frPoll (run .frPoll s) ≠ [1, 0]) : s.settlesAt (run .frPoll (run .frPoll s)) := by
  unfold State.settlesAt
  rw [hn]
  refine ⟨run .frPoll s, rfl, ?_⟩
  rw [if_pos (show (run .frPoll s).port.reply = [1, 0] from h)]
  refine ⟨run .frPoll (run .frPoll s), rfl, ?_⟩
  rw [if_neg (show ¬ (run .frPoll (run .frPoll s)).port.reply = [1, 0] from h2)]

/-- A state past the PS_RDY deadline, the poll due if the alert line is set. -/
def psRdyLate (pending alert : Bool) (as : List XAnswer) : State :=
  timed (asked { att with pl := { att.pl with
    waitPsRdy := true
    tPsRdy := 2000
    tPoll := 2500
    reqPending := pending } } (slow as)) 2581 alert

/-- PsRdyTimeoutFallsBack, with a framer that is ready and with one that is not; and with the poll due. -/
theorem witness_PsRdyTimeout :
    (∀ s ∈ [psRdyLate true false [], psRdyLate false true [bad .read], psRdyLate true true [bad .read],
        { psRdyLate true false [] with fr := Fr.reset }],
      s.pl.ready = true ∧ s.capDue = false ∧ s.psRdyDue = true) ∧
    (psRdyLate true false []).pollDue = false ∧ (psRdyLate true true []).pollDue = true ∧
    (run .tick (psRdyLate false false [])).sendDue = false ∧
    answer .tick (psRdyLate true true [bad .read]) = [2] ∧
    (run .tick (psRdyLate true true [bad .read])).env.calls.map (·.call) = [.readStatus] ∧
    answer .frPoll (run .tick (asked (psRdyLate true false []) [bad .read])) = [2, 0] ∧
    (run .tick (psRdyLate true true [bad .read])).pl.tPoll = 2581 := by decide

/-- PsRdyTimeoutFallsBack, the poll it settles on. -/
theorem witness_PsRdyTimeout_polls :
    (run .tick (asked (psRdyLate true false []) [bad .read])).settlesAt
      (run .frPoll (run .tick (asked (psRdyLate true false []) [bad .read]))) := settlesAt_first (by decide)

/-- A Request that is pending or kept alive, the poll due if the alert line is set. -/
def sendLate (pending alert : Bool) (as : List XAnswer) : State :=
  timed (asked { att with pl := { att.pl with
    reqPending := pending
    readyStatus := .pps
    tPpsReq := 1260
    tPoll := 6200 } } (slow as)) (if pending then 6260 else 6261) alert

/-- DueRequestIsSent: pending, and kept alive; the write succeeds and fails; and with the poll due. -/
theorem witness_DueRequest :
    (∀ s ∈ [sendLate true false [ans], sendLate false false [bad .read], sendLate true true [ans, bad .read],
        sendLate true true [bad .write, bad .read]],
      s.pl.ready = true ∧ s.fr.ready = true ∧ s.capDue = false ∧ s.sendDue = true) ∧
    (sendLate true false [ans]).succeeds 0 = true ∧ (sendLate false false [bad .read]).succeeds 0 = false ∧
    (run .tick (sendLate true false [ans])).pollDue = false ∧ (run .tick (sendLate true false [ans])).capDue = false ∧
    (run .tick (sendLate false false [bad .read])).pollDue = false ∧
    answer .tick (sendLate true true [ans, bad .read]) = [2] ∧
    answer .tick (sendLate true true [bad .write, bad .read]) = [3] ∧
    (run .tick (sendLate true true [bad .write, bad .read])).pl.tPoll = 6261 ∧
    answer .frPoll (asked (sendLate true true []) [bad .read]) = [2, 0] := by decide

/-- DueRequestIsSent, the framer not ready, without and with the poll due. -/
theorem witness_DueRequest_notReady :
    (∀ s ∈ [unready (sendLate true false []), unready (sendLate true true [])],
      s.pl.ready = true ∧ s.fr.ready = false ∧ s.capDue = false ∧ s.sendDue = true ∧ answer .tick s = [5] ∧
      (run .tick s).pl.reqPending = true ∧ (run .tick s).env.calls = []) ∧
    answer .frPoll (unready (sendLate true true [])) = [5, 0] := by decide

/-- A state at which only a poll is due, with the transport's answers. -/
def polling (s : State) (as : List XAnswer) : State := timed (asked s (slow as)) 1400 true

/-- TickAttach: a qualifying pin without and with a target to stage, and a pin at the USB default tier. -/
theorem witness_TickAttach :
    (∀ s ∈ [polling rdy (attachAnswers .rd1A5 .opn), polling (offered rdy [] 249 20 0) (attachAnswers .opn .rd3A0),
        polling rdy (attachAnswers .rdUsb .opn)],
      s.pl.ready = true ∧ s.quiet = true ∧ s.pollDue = true ∧ answer .frPoll s = [0, 1]) ∧
    (run .tick (polling rdy (attachAnswers .rd1A5 .opn))).pl.waitSrcCap = true ∧
    (run .tick (polling (offered rdy [] 249 20 0) (attachAnswers .opn .rd3A0))).pl.ppsVNext = 249 ∧
    (run .tick (polling rdy (attachAnswers .rdUsb .opn))).pl.readyMv = 5000 := by decide

/-- The answers of a poll that reads one pin unstable. -/
def unstable : List XAnswer := [stat true false false true, ans, lvl .rd1A5, lvl .rd3A0]

/-- TickAttach: the settled poll, at once, and after a Busy. -/
theorem witness_TickAttach_settles :
    (polling rdy (attachAnswers .rd1A5 .opn)).settlesAt (run .frPoll (polling rdy (attachAnswers .rd1A5 .opn))) ∧
    (polling rdy (unstable ++ attachAnswers .rd1A5 .opn)).settlesAt
      (run .frPoll (run .frPoll (polling rdy (unstable ++ attachAnswers .rd1A5 .opn)))) ∧
    answer .frPoll (run .frPoll (polling rdy (unstable ++ attachAnswers .rd1A5 .opn))) = [0, 1] ∧
    (run .tick (polling rdy (unstable ++ attachAnswers .rd1A5 .opn))).pl.waitSrcCap = true :=
  ⟨settlesAt_first (by decide), settlesAt_second (by decide) (by decide) (by decide), by decide, by decide⟩

/-- TickDetach. -/
theorem witness_TickDetach :
    let s := polling att [stat false false false true, ans, ans]
    s.pl.ready = true ∧ s.quiet = true ∧ s.pollDue = true ∧ answer .frPoll s = [0, 2] ∧
    s.settlesAt (run .frPoll s) :=
  ⟨by decide, by decide, by decide, by decide, settlesAt_first (by decide)⟩

/-- TickSourceCapabilities: without GoodCrcSent, and with it and each outcome of the flush. -/
theorem witness_TickSourceCapabilities :
    (∀ s ∈ [polling att (frameAnswers false l1Frame), polling att (frameAnswers true l1Frame),
        polling att ((frameAnswers true l1Frame).take 4 ++ [bad .write])],
      (s.pl.ready = true ∧ s.quiet = true ∧ s.pollDue = true ∧ s.params.codes.wf = true ∧
        (run .frPoll s).fr.rxHdr.toNat / 2 ^ 15 = 0 ∧ (run .frPoll s).fr.rxHdr.toNat / 2 ^ 12 % 8 ≠ 0 ∧
        (run .frPoll s).fr.rxHdr.toNat % 2 ^ 5 = (typeCode s.params .data 1).toNat) ∧
      s.settlesAt (run .frPoll s)) ∧
    answer .frPoll (polling att (frameAnswers false l1Frame)) = [0, 4] ∧
    answer .frPoll (polling att (frameAnswers true l1Frame)) = [0, 12] ∧
    (run .frPoll (polling att (frameAnswers true l1Frame))).succeeds 0 = true ∧
    (run .frPoll (polling att ((frameAnswers true l1Frame).take 4 ++ [bad .write]))).succeeds 0 = false ∧
    answer .tick (polling att ((frameAnswers true l1Frame).take 4 ++ [bad .write])) = [3] :=
  ⟨fun s hs => ⟨by revert s; decide, settlesAt_first (by revert s; decide)⟩, by decide⟩

/-- s waiting for PS_RDY on a capability of a list, with a frame in the FIFO. -/
def confirming (objs : List Obj) (sel : BitVec 3) (next : Half) (gcrc : Bool) (typ : Byte) : State :=
  let s := offered att objs 210 20 sel
  polling { s with pl := { s.pl with waitPsRdy := true, tPsRdy := 1300, ppsVNext := next, ppsINext := 20 } }
    (frameAnswers gcrc [0xE0, typ, 0x04])

/-- TickPsRdy: each type of capability, none live, a second stage, one not awaited, and with GoodCrcSent. -/
theorem witness_TickPsRdy :
    (∀ s ∈ [confirming l1 0 0 false 0x86, confirming l2 5 0 false 0x86, confirming l1 1 0 false 0x86,
        confirming l1 2 0 true 0x86, confirming l1 2 210 false 0x86, confirming [] 0 0 false 0x86,
        polling att (frameAnswers false [0xE0, 0x86, 0x04])],
      (s.pl.ready = true ∧ s.quiet = true ∧ s.pollDue = true ∧ s.params.codes.wf = true ∧
        (run .frPoll s).fr.rxHdr.toNat / 2 ^ 12 = 0 ∧
        (run .frPoll s).fr.rxHdr.toNat % 2 ^ 5 = (typeCode s.params .ctrl 6).toNat) ∧
      s.settlesAt (run .frPoll s)) ∧
    answer .frPoll (confirming l1 0 0 false 0x86) = [0, 4] ∧ answer .frPoll (confirming l1 2 0 true 0x86) = [0, 12] ∧
    (run .tick (confirming l1 0 0 false 0x86)).pl.readyMa = 3000 ∧
    (run .tick (confirming l2 5 0 false 0x86)).pl.readyMv = 20000 ∧
    (run .tick (confirming l1 1 0 false 0x86)).pl.readyMv = 9000 ∧
    (run .tick (confirming l1 2 210 false 0x86)).pl.reqPending = true ∧
    (run .tick (confirming [] 0 0 false 0x86)).pl.readyMa = 1000 :=
  ⟨fun s hs => ⟨by revert s; decide, settlesAt_first (by revert s; decide)⟩, by decide⟩

/-- TickPsRdy: Reject under AsPsRdy, without and with GoodCrcSent (R379: PPS is confirmed all the same); its log tuple
has no header. -/
theorem witness_TickPsRdy_reject :
    (∀ s ∈ [confirming l1 2 0 false 0x84, confirming l1 2 0 true 0x84],
      (s.pl.ready = true ∧ s.quiet = true ∧ s.pollDue = true ∧ s.params.codes.wf = true ∧
        s.params.rejectPolicy = .asPsRdy ∧ (run .frPoll s).fr.rxHdr.toNat / 2 ^ 12 = 0 ∧
        (run .frPoll s).fr.rxHdr.toNat % 2 ^ 5 = (typeCode s.params .ctrl 4).toNat) ∧
      s.settlesAt (run .frPoll s)) ∧
    (run .tick (confirming l1 2 0 false 0x84)).pl.readyStatus = .pps ∧
    (run .tick (confirming l1 2 0 false 0x84)).env.log.map (fun e => (e.kind, e.header))
      = [(.receive, some 0x0484), (.reject, none), (.powerReady, none)] ∧
    (run .tick (confirming l1 2 0 true 0x84)).env.now
      = (run .tick (confirming l1 2 0 false 0x84)).env.now + 1 + 2 :=
  ⟨fun s hs => ⟨by revert s; decide, settlesAt_first (by revert s; decide)⟩, by decide⟩

/-- TickDistinctReject: awaited and not, without and with GoodCrcSent. -/
theorem witness_TickDistinctReject :
    let d (s : State) : State := { s with params := { s.params with rejectPolicy := .distinct } };
    (∀ s ∈ [d (polling att (frameAnswers false [0xE0, 0x84, 0x02])), d (confirming [] 0 210 false 0x84),
        d (confirming [] 0 210 true 0x84)],
      (s.pl.ready = true ∧ s.quiet = true ∧ s.pollDue = true ∧ s.params.codes.wf = true ∧
        s.params.rejectPolicy = .distinct ∧ (run .frPoll s).fr.rxHdr.toNat / 2 ^ 12 = 0 ∧
        (run .frPoll s).fr.rxHdr.toNat % 2 ^ 5 = (typeCode s.params .ctrl 4).toNat) ∧
      s.settlesAt (run .frPoll s)) ∧
    answer .frPoll (d (confirming [] 0 210 false 0x84)) = [0, 4] ∧
    answer .frPoll (d (confirming [] 0 210 true 0x84)) = [0, 12] ∧
    (run .tick (d (confirming [] 0 210 true 0x84))).pl.ppsVNext = 0 :=
  ⟨fun s hs => ⟨by revert s; decide, settlesAt_first (by revert s; decide)⟩, by decide⟩

/-- s with a current entry and GoodCrcSent latched. -/
def flushing (t : Table) (k : BitVec 5) (as : List XAnswer) : State :=
  polling { att with pe := { att.pe with curTable := t, curIndex := k } } (stat true false true true :: ans :: as)

/-- TickFlushesTheQueuedReply, GoodCrcSent alone: no reply, a Request, another message, a write that fails. -/
theorem witness_TickFlushes :
    (∀ s ∈ [flushing .ctrl 6 [], flushing .data 1 [ans], flushing .ctrl 8 [ans], flushing .ctrl 8 [bad .write]],
      (s.pl.ready = true ∧ s.quiet = true ∧ s.pollDue = true ∧ answer .frPoll s = [0, 8]) ∧
      s.settlesAt (run .frPoll s)) ∧
    (run .frPoll (flushing .ctrl 8 [ans])).succeeds 0 = true ∧
    (run .frPoll (flushing .ctrl 8 [bad .write])).succeeds 0 = false ∧
    answer .peRespond (flushing .ctrl 6 []) = [0] ∧
    answer .peRespond (flushing .data 1 []) = [1, 0x82, 0x10, 0, 0, 0, 0x10] :=
  ⟨fun s hs => ⟨by revert s; decide, settlesAt_first (by revert s; decide)⟩, by decide⟩

/-- TickFlushesTheQueuedReply, a frame: Accept, GoodCRC and PPS_Status, and R283's example, Get_Sink_Cap with GoodCrcSent
in the same poll, answered at once. -/
theorem witness_TickFlushes_frame :
    (∀ s ∈ [polling att (frameAnswers false [0xE0, 0x83, 0x00]), polling att (frameAnswers true [0xE0, 0x81, 0x00]),
        polling att (frameAnswers false [0xE0, 0x8C, 0xA0, 4, 0x80, 0xC2, 1, 0x28, 8, 0, 0]),
        polling att (frameAnswers true [0xE0, 0x88, 0x00])],
      (s.pl.ready = true ∧ s.quiet = true ∧ s.pollDue = true ∧ s.params.codes.wf = true ∧
        (∀ t ∈ [(Table.data, (1 : BitVec 5)), (.ctrl, 4), (.ctrl, 6)],
          (run .frPoll s).fr.rxHdr.toNat % 2 ^ 5 ≠ (typeCode s.params t.1 t.2).toNat ∨ t.1 = .data ∧
            (run .frPoll s).fr.rxHdr.toNat / 2 ^ 12 = 0)) ∧
      s.settlesAt (run .frPoll s)) ∧
    answer .frPoll (polling att (frameAnswers false [0xE0, 0x83, 0x00])) = [0, 4] ∧
    answer .frPoll (polling att (frameAnswers true [0xE0, 0x88, 0x00])) = [0, 12] ∧
    (run .tick (polling att (frameAnswers true [0xE0, 0x81, 0x00]))).pe.msgId = 1 ∧
    (run .tick (polling att (frameAnswers false [0xE0, 0x8C, 0xA0, 4, 0x80, 0xC2, 1, 0x28, 8, 0, 0]))).pe.ppssV = 450 ∧
    sends .tick (polling att (frameAnswers true [0xE0, 0x88, 0x00]))
      = [0x12, 0x12, 0x12, 0x13, 0x86, 0x84, 0x10, 0x64, 0x90, 0x01, 0x00, 0xFF, 0x14, 0xFE, 0xA1] :=
  ⟨fun s hs => ⟨by revert s; decide, settlesAt_first (by revert s; decide)⟩, by decide⟩

/-- TickReportsAFailedPoll: no event, an error, Busy once and then settled, and Busy three times. -/
theorem witness_TickFailedPoll :
    let s (n : Nat) : State := polling rdy ((List.replicate n unstable).flatten ++ [stat false false false true]);
    (s 0).pl.ready = true ∧ (s 0).quiet = true ∧ (s 0).pollDue = true ∧ (s 0).params.nPollTries = 3 ∧
    answer .frPoll (s 0) = [0, 0] ∧ answer .tick (s 0) = [0] ∧ answer .frPoll (polling att [bad .read]) = [2, 0] ∧
    answer .frPoll (s 1) = [1, 0] ∧ answer .frPoll (run .frPoll (s 1)) = [0, 0] ∧ answer .tick (s 1) = [0] ∧
    answer .frPoll (run .frPoll (run .frPoll (s 3))) = [1, 0] ∧ answer .tick (s 3) = [1] := by decide

/-- TickReportsAFailedPoll: the poll it settles on. -/
theorem witness_TickFailedPoll_settles :
    (polling att [bad .read]).settlesAt (run .frPoll (polling att [bad .read])) := settlesAt_first (by decide)

/-- s past the PS_RDY deadline with a Request pending, the poll due. -/
def timedOut (s : State) (as : List XAnswer) : State :=
  timed (asked { s with pl := { s.pl with waitPsRdy := true, tPsRdy := 2000, reqPending := true } } (slow as)) 2581 true

/-- s whose pending Request cannot be written, the poll due. -/
def unsent (s : State) (as : List XAnswer) : State :=
  timed (asked { s with pl := { s.pl with reqPending := true } } (slow (bad .write :: as))) 2581 true

/-- What phase A leaves of s. -/
def afterPhaseA (s : State) : State := s.phaseSrcCap.2.phaseRequest.2

/-- TickGateAndIdleTick and the statements about phase B: every state has a phase A. -/
theorem witness_phaseA (s : State) :
    s.phaseA (afterPhaseA s) (worst s.phaseSrcCap.1 s.phaseSrcCap.2.phaseRequest.1).code := State.phaseA_iff.2 ⟨rfl, rfl⟩

/-- TickAttach to TickReportsAFailedPoll after a phase A that acted: a poll that attaches, detaches, brings a frame of each
kind or GoodCrcSent with it, or has no event. -/
theorem witness_PhaseB_afterPhaseA :
    (∀ p ∈ [(timedOut rdy (attachAnswers .rd1A5 .opn), [0, 1]), (timedOut att [stat false false false true, ans, ans], [0, 2]),
        (timedOut att (frameAnswers true l1Frame), [0, 12]), (unsent att (frameAnswers false l1Frame), [0, 4]),
        (unsent att (frameAnswers false [0xE0, 0x86, 0x04]), [0, 4]), (timedOut att (frameAnswers true [0xE0, 0x84, 0x02]), [0, 12]),
        (unsent { att with params := { att.params with rejectPolicy := .distinct } }
          (frameAnswers false [0xE0, 0x84, 0x02]), [0, 4]),
        (unsent att (frameAnswers true [0xE0, 0x88, 0x00]), [0, 12]), (unsent att [stat true false false true], [0, 0])],
      (p.1.pl.ready = true ∧ p.1.quiet = false ∧ (afterPhaseA p.1).pollDue = true ∧
        answer .frPoll (afterPhaseA p.1) = p.2 ∧
        answer .tick p.1 = [if p.1.pl.waitPsRdy then 0 else 3]) ∧
      (afterPhaseA p.1).settlesAt (run .frPoll (afterPhaseA p.1))) ∧
    (run .tick (timedOut rdy (attachAnswers .rd1A5 .opn))).pl.reqPending = false ∧
    (run .tick (unsent att (frameAnswers false l1Frame))).pl.waitPsRdy = true ∧
    (run .tick (unsent att (frameAnswers true [0xE0, 0x88, 0x00]))).pl.reqPending = true :=
  ⟨fun p hp => ⟨by revert p; decide, settlesAt_first (by revert p; decide)⟩, by decide⟩

/-- ReconfigurationCommands: a current of 255 units and one above, a target that does and one that does not qualify. -/
theorem witness_Reconfiguration :
    rdy.pl.ready = true ∧ (12799 : Half).toNat / 50 ≤ 255 ∧ 255 < (12800 : Half).toNat / 50 ∧
    answer (.reqPps 9000 2000) (offered rdy l1 0 0 0) = [0, 1] ∧
    answer (.reqPps 9000 12799) (offered rdy l1 0 0 0) = [0, 0] := by decide

end Sys2Proof.Tests
end

/-! PROOFS. The encodings and the state after reset: O1, O2, O5 and O10. -/

namespace Sys2Proof

open Sys2Proof.Config

/-! ## The round trip -/

namespace Laws.RoundTrip

/-- Every constructor has its round trip. -/
theorem of_instr : ∀ i : Instr, Statement i
  | .init _ _ _ => init _ _ _
  | .tick => tick
  | .isTrans => isTrans
  | .getMv => getMv
  | .getMa => getMa
  | .getMw => getMw
  | .getReady => getReady
  | .reqPps _ _ => reqPps _ _
  | .reqOpt _ => reqOpt _
  | .frInit => frInit
  | .frPoll => frPoll
  | .frSetVbusSense _ => frSetVbusSense _
  | .frReadCc => frReadCc
  | .frReadVbus => frReadVbus
  | .frReadId => frReadId
  | .frTxFrame _ _ => frTxFrame _ _
  | .frTxHardReset => frTxHardReset
  | .frGetRx => frGetRx
  | .peInit => peInit
  | .peReset => peReset
  | .peHandleMsg _ _ => peHandleMsg _ _
  | .peRespond => peRespond
  | .peEvaluate _ _ => peEvaluate _ _
  | .peCreateGetSrcCap => peCreateGetSrcCap
  | .peCreateGetPpsStatus => peCreateGetPpsStatus
  | .peCreateRequest => peCreateRequest
  | .peSetPowerOption _ => peSetPowerOption _
  | .peSelectPower _ => peSelectPower _
  | .peSetPps _ _ _ => peSetPps _ _ _
  | .peGetPowerInfo _ => peGetPowerInfo _
  | .peGetSelected => peGetSelected
  | .peGetPpsStatus => peGetPpsStatus
  | .peGetTarget => peGetTarget
  | .cmdReserved _ => cmdReserved _
  | .rxCReserved0 _ => rxCReserved0 _
  | .rxGoodCrc _ => rxGoodCrc _
  | .rxGotoMin _ => rxGotoMin _
  | .rxAccept _ => rxAccept _
  | .rxReject _ => rxReject _
  | .rxPing _ => rxPing _
  | .rxPsRdy _ => rxPsRdy _
  | .rxGetSourceCap _ => rxGetSourceCap _
  | .rxGetSinkCap _ => rxGetSinkCap _
  | .rxDrSwap _ => rxDrSwap _
  | .rxPrSwap _ => rxPrSwap _
  | .rxVconnSwap _ => rxVconnSwap _
  | .rxWait _ => rxWait _
  | .rxSoftReset _ => rxSoftReset _
  | .rxDataReset _ => rxDataReset _
  | .rxDataResetComplete _ => rxDataResetComplete _
  | .rxNotSupported _ => rxNotSupported _
  | .rxGetSourceCapExtended _ => rxGetSourceCapExtended _
  | .rxGetStatus _ => rxGetStatus _
  | .rxFrSwap _ => rxFrSwap _
  | .rxGetPpsStatus _ => rxGetPpsStatus _
  | .rxGetCountryCodes _ => rxGetCountryCodes _
  | .rxGetSinkCapExtended _ => rxGetSinkCapExtended _
  | .rxCOther _ _ => rxCOther _ _
  | .rxDReserved0 _ _ => rxDReserved0 _ _
  | .rxSourceCapabilities _ _ => rxSourceCapabilities _ _
  | .rxRequest _ _ => rxRequest _ _
  | .rxBist _ _ => rxBist _ _
  | .rxSinkCapabilities _ _ => rxSinkCapabilities _ _
  | .rxBatteryStatus _ _ => rxBatteryStatus _ _
  | .rxAlert _ _ => rxAlert _ _
  | .rxGetCountryInfo _ _ => rxGetCountryInfo _ _
  | .rxEnterUsb _ _ => rxEnterUsb _ _
  | .rxDReserved9 _ _ => rxDReserved9 _ _
  | .rxDReserved10 _ _ => rxDReserved10 _ _
  | .rxDReserved11 _ _ => rxDReserved11 _ _
  | .rxDReserved12 _ _ => rxDReserved12 _ _
  | .rxDReserved13 _ _ => rxDReserved13 _ _
  | .rxDReserved14 _ _ => rxDReserved14 _ _
  | .rxVendorDefined _ _ => rxVendorDefined _ _
  | .rxDOther _ _ _ => rxDOther _ _ _
  | .rxEReserved0 _ _ => rxEReserved0 _ _
  | .rxSourceCapabilitiesExtended _ _ => rxSourceCapabilitiesExtended _ _
  | .rxStatus _ _ => rxStatus _ _
  | .rxGetBatteryCap _ _ => rxGetBatteryCap _ _
  | .rxGetBatteryStatus _ _ => rxGetBatteryStatus _ _
  | .rxBatteryCapabilities _ _ => rxBatteryCapabilities _ _
  | .rxGetManufacturerInfo _ _ => rxGetManufacturerInfo _ _
  | .rxManufacturerInfo _ _ => rxManufacturerInfo _ _
  | .rxSecurityRequest _ _ => rxSecurityRequest _ _
  | .rxSecurityResponse _ _ => rxSecurityResponse _ _
  | .rxFirmwareUpdateRequest _ _ => rxFirmwareUpdateRequest _ _
  | .rxFirmwareUpdateResponse _ _ => rxFirmwareUpdateResponse _ _
  | .rxPpsStatus _ _ => rxPpsStatus _ _
  | .rxCountryInfo _ _ => rxCountryInfo _ _
  | .rxCountryCodes _ _ => rxCountryCodes _ _
  | .rxSinkCapabilitiesExtended _ _ => rxSinkCapabilitiesExtended _ _
  | .rxEOther _ _ _ => rxEOther _ _ _
  | .txAccept _ => txAccept _
  | .txReject _ => txReject _
  | .txGetSourceCap _ => txGetSourceCap _
  | .txNotSupported _ => txNotSupported _
  | .txGetPpsStatus _ => txGetPpsStatus _
  | .txRequest _ => txRequest _
  | .txSinkCapabilities _ => txSinkCapabilities _
  | .txSinkCapabilitiesExtended _ => txSinkCapabilitiesExtended _

end Laws.RoundTrip

/-- Settles O1: under the codes c the encoder's bytes read as those of the table's codes, and these give every
constructor back. -/
theorem decodeOfEncode : Obligations.DecodeOfEncode := by
  intro c i hc hi
  calc decodeAt c i.format (encodeAt c i)
      = decode i.format (encode i) := decodeAt_wireBytes hc i.format (encode i)
    _ = .instr i := Laws.RoundTrip.of_instr i hi

/-! ## The decoder read backwards -/

/-- A command is read off bytes that begin with its encoding. -/
theorem decode_cmd_some {bs : List Byte} {i : Instr} (h : decode .cmd bs = .instr i) :
    i.wf = true ∧ i.format = .cmd ∧ ∃ rest, bs = encode i ++ rest := by
  cases bs with
  | nil => cases h
  | cons op bs => exact decodeCmd_some h

/-- A received message is read off bytes that begin with its encoding, and that begins with its header. -/
theorem decode_rx_some {bs : List Byte} {i : Instr} (h : decode .rx bs = .instr i) :
    i.wf = true ∧ i.format = .rx ∧ ∃ hd body rest, encode i = le16 hd ++ body ∧ bs = encode i ++ rest := by
  rw [decode, decodeRx] at h
  obtain ⟨hd, os, rest, hlen, hbs, hi⟩ := readFrame_some h
  obtain rfl := Decoded.instr.inj hi
  obtain ⟨henc, hwf, hfmt⟩ := rxInstr_reads hd os hlen
  exact ⟨hwf, hfmt, hd, objsBytes os, rest, henc, by rw [henc, hbs]⟩

/-- A transmitted message is read off bytes that begin with its encoding, which is its header. -/
theorem decode_tx_some {bs : List Byte} {i : Instr} (h : decode .tx bs = .instr i) :
    i.wf = true ∧ i.format = .tx ∧ ∃ hd body rest, encode i = le16 hd ++ body ∧ bs = encode i ++ rest := by
  rw [decode] at h
  obtain ⟨hd, rest, hbs, hi⟩ := readU16_some h
  obtain ⟨hwf, hfmt, henc⟩ := decodeTx_some hi
  exact ⟨hwf, hfmt, hd, [], rest, by rw [henc, List.append_nil], by rw [henc, hbs]⟩

/-- Bytes whose translation begins with a message's table encoding begin with its encoding under the codes c. -/
theorem eq_mapHeader_append {c : TypeCodes} (hc : c.wf = true) {bs e body rest : List Byte} {hd : Half}
    (he : e = le16 hd ++ body) (hbs : mapHeader (toTableCode c) bs = e ++ rest) :
    bs = mapHeader (toWireCode c) e ++ rest :=
  calc bs = mapHeader (toWireCode c) (mapHeader (toTableCode c) bs) := by
        rw [mapHeader_mapHeader, mapHeader_id (toWireCode_toTableCode hc)]
    _ = mapHeader (toWireCode c) e ++ rest := by
        rw [hbs, he, List.append_assoc, mapHeader_le16, mapHeader_le16, List.append_assoc]

/-- Settles O2, format by format: a command's bytes are not translated, a message's are at their header only. -/
theorem encodeOfDecode : Obligations.EncodeOfDecode := by
  intro c fmt bs i hc h
  cases fmt with
  | cmd =>
    obtain ⟨hwf, hfmt, rest, hbs⟩ := decode_cmd_some h
    exact ⟨hwf, hfmt, rest, by rw [encodeAt, hfmt, wireBytes, hbs]⟩
  | rx =>
    obtain ⟨hwf, hfmt, hd, body, rest, henc, hbs⟩ := decode_rx_some h
    exact ⟨hwf, hfmt, rest, by rw [encodeAt, hfmt, wireBytes, ← eq_mapHeader_append hc henc hbs]⟩
  | tx =>
    obtain ⟨hwf, hfmt, hd, body, rest, henc, hbs⟩ := decode_tx_some h
    exact ⟨hwf, hfmt, rest, by rw [encodeAt, hfmt, wireBytes, ← eq_mapHeader_append hc henc hbs]⟩

/-! ## Words written out -/

/-- With the codes of 30_encoding.md R95 to R97 a header stands for itself. -/
theorem toTableCode_default (h : Half) : toTableCode Machine.defaultCodes h = h := by
  have hrow : rowIn (codesOfHeader Machine.defaultCodes h) (h.extractLsb' 0 5) = h.extractLsb' 0 5 := by
    obtain ⟨hctrl, hdata, hext⟩ := rowIn_default (h.extractLsb' 0 5)
    unfold codesOfHeader
    split
    · exact hext
    · split
      · exact hctrl
      · exact hdata
  rw [toTableCode, hrow, withType_self]

/-- With those codes decodeAt is decode. -/
theorem decodeAt_default (fmt : Format) (bs : List Byte) : decodeAt Machine.defaultCodes fmt bs = decode fmt bs := by
  cases fmt with
  | cmd => rfl
  | rx | tx => rw [decodeAt, mapHeader_id toTableCode_default]

/-- Settles O5: the default codes translate nothing, and the decoder evaluates each word. -/
theorem writtenOutWordsDecode : Obligations.WrittenOutWordsDecode :=
  ⟨decodeAt_default, by decide, by decide, by decide, by decide, by decide, by decide, by decide, by decide, by decide,
    by decide⟩

/-- Settles O10: the state after reset is closed, so its invariants evaluate. -/
theorem invariantsHoldAtReset : Obligations.InvariantsHoldAtReset := ⟨by decide, by decide⟩

end Sys2Proof

/-! PROOFS. The invariants of 10_state.md R46: each unit's operations keep its own, PL's operations all of them, and so
every instruction and every step (O11). -/

namespace Sys2Proof.Machine

open Sys2Proof.Config

/-! ## PE: the list's tail, the selection and the current message -/

theorem Pe.inv_iff {p : Pe} :
    p.inv = true ↔ p.listTailZero = true ∧ p.selectedLive = true ∧ p.currentLegal = true := by
  simp only [Pe.inv, Bool.and_eq_true, and_assoc]

theorem Pe.selectedLive_iff {p : Pe} :
    p.selectedLive = true ↔ (p.pdoCount = 0 → p.selected = 0) ∧ (p.pdoCount ≠ 0 → p.selected.toNat < p.pdoCount.toNat) := by
  unfold Pe.selectedLive
  split
  · rename_i h0
    simp only [beq_iff_eq, h0, ne_eq, not_true_eq_false, false_implies, and_true, true_implies]
  · rename_i h0
    simp only [decide_eq_true_eq, h0, ne_eq, not_false_eq_true, false_implies, true_and, true_implies]

theorem Pe.currentLegal_iff {p : Pe} : p.currentLegal = true ↔ p.curIndex.toNat ≤ lastIndex p.curTable := by
  simp only [Pe.currentLegal, decide_eq_true_eq]

/-- What the evaluator answers is a live index, or 0 where the list is empty (43_negotiation.md R244, R254 (a)). -/
theorem Pe.selectedLive_evaluate {pe q : Pe} {p : Params} {v : Half} {i : Byte} (hc : q.pdoCount = pe.pdoCount)
    (hs : q.selected = BitVec.ofNat 3 (pe.evaluate p v i).2) : q.selectedLive = true := by
  rw [Pe.selectedLive_iff, hc, hs]
  constructor
  · intro h0
    rw [Pe.evaluate_empty pe p v i h0]
    rfl
  · intro h0
    have hlt := Pe.evaluate_lt pe p v i fun h => h0 (BitVec.eq_of_toNat_eq h)
    have h8 := pe.pdoCount.isLt
    rwa [BitVec.toNat_ofNat, Nat.mod_eq_of_lt (by omega)]

theorem Pe.inv_reset : Pe.reset.inv = true := by decide

theorem Pe.inv_clear {p : Pe} (h : p.inv = true) : p.clear.inv = true := by
  obtain ⟨htail, hsel, -⟩ := Pe.inv_iff.1 h
  exact Pe.inv_iff.2 ⟨htail, hsel, rfl⟩

theorem Pe.inv_setCurrent {p : Pe} (h : p.inv = true) {t : Table} {k : BitVec 5} (hk : k.toNat ≤ lastIndex t) :
    (p.setCurrent t k).inv = true := by
  obtain ⟨htail, hsel, -⟩ := Pe.inv_iff.1 h
  exact Pe.inv_iff.2 ⟨htail, hsel, Pe.currentLegal_iff.2 hk⟩

theorem Pe.inv_setPowerOption {pe : Pe} (h : pe.inv = true) (p : Params) (o : Byte) :
    (pe.setPowerOption p o).2.inv = true := by
  obtain ⟨htail, -, hcur⟩ := Pe.inv_iff.1 h
  exact Pe.inv_iff.2 ⟨htail, Pe.selectedLive_evaluate (pe := pe.withOption o) rfl rfl, hcur⟩

theorem Pe.inv_setPps {pe : Pe} (h : pe.inv = true) (p : Params) (v : Half) (i : Byte) (strict : Bool) :
    (pe.setPps p v i strict).2.inv = true := by
  obtain ⟨htail, -, hcur⟩ := Pe.inv_iff.1 h
  unfold Pe.setPps
  dsimp only
  split
  · exact h
  · exact Pe.inv_iff.2 ⟨htail, Pe.selectedLive_evaluate (pe := pe) rfl rfl, hcur⟩

theorem Pe.inv_selectPower {pe : Pe} (h : pe.inv = true) (k : Byte) : (pe.selectPower k).2.inv = true := by
  obtain ⟨htail, -, hcur⟩ := Pe.inv_iff.1 h
  unfold Pe.selectPower
  split
  · exact h
  · rename_i hk
    have h8 := pe.pdoCount.isLt
    refine Pe.inv_iff.2 ⟨htail, Pe.selectedLive_iff.2 ⟨fun h0 => ?_, fun _ => ?_⟩, hcur⟩
    · exact absurd (Nat.zero_le _) (h0 ▸ hk : ¬ (0 : BitVec 3).toNat ≤ k.toNat)
    · show (k.extractLsb' 0 3).toNat < pe.pdoCount.toNat
      rw [BitVec.extractLsb'_toNat, Nat.shiftRight_zero]
      omega

/-- A list of at most seven objects is stored with 0 above it (10_state.md R33). -/
theorem Pe.listTailZero_withSource (pe : Pe) {objs : List Obj} (h7 : objs.length ≤ 7) :
    (pe.withSource objs).listTailZero = true := by
  simp only [Pe.listTailZero, List.all_eq_true, Bool.or_eq_true, decide_eq_true_eq, beq_iff_eq]
  intro i _
  rw [Pe.withSource_pdoCount, Pe.withSource_srcPdo, Objs7.ofList_get, BitVec.toNat_ofNat, Nat.mod_eq_of_lt (by omega)]
  rcases Nat.lt_or_ge i objs.length with hi | hi
  · exact .inl hi
  · right
    rw [List.getD_eq_default _ _ hi, ite_self]

theorem Pe.inv_sourceCap {pe : Pe} (h : pe.inv = true) (p : Params) {objs : List Obj} (h7 : objs.length ≤ 7) :
    (pe.sourceCap p objs).2.inv = true := by
  obtain ⟨-, -, hcur⟩ := Pe.inv_iff.1 h
  exact Pe.inv_iff.2
    ⟨pe.listTailZero_withSource h7, Pe.selectedLive_evaluate (pe := pe.withSource objs) rfl rfl, hcur⟩

theorem Pe.rejectedBy_snd (pe : Pe) (policy : RejectPolicy) : (pe.rejectedBy policy).2 = pe := by
  cases policy <;> rfl

/-- Only h_source_cap writes what the invariants speak of. -/
theorem Pe.inv_runHandler {pe : Pe} (h : pe.inv = true) (p : Params) {objs : List Obj} (h7 : objs.length ≤ 7)
    (hd : Option Handler) : (pe.runHandler p objs hd).2.inv = true := by
  match hd with
  | some .sourceCap => exact Pe.inv_sourceCap h p h7
  | some .reject => exact (Pe.rejectedBy_snd pe p.rejectPolicy).symm ▸ h
  | some .goodCrc | some .accept | some .psRdy | some .ppsStatus | some .nop | none => exact h

theorem clampIndex_le (t : Table) (typ : BitVec 5) : (clampIndex t typ).toNat ≤ lastIndex t := by
  rw [clampIndex, BitVec.toNat_ofNat]
  exact (Nat.mod_le _ _).trans (Nat.min_le_right _ _)

theorem Pe.inv_handleMsg {pe : Pe} (h : pe.inv = true) (p : Params) (hd : Half) (objs : List Obj) :
    (pe.handleMsg p hd objs).2.inv = true :=
  Pe.inv_runHandler (Pe.inv_setCurrent h (clampIndex_le _ _)) p
    (by rw [present_length]; exact Nat.le_of_lt_succ (objectCount_lt hd)) _

theorem Pe.inv_initTarget {pe : Pe} (h : pe.inv = true) (p : Params) (option : Byte) (mv ma : Half) :
    (pe.initTarget p option mv ma).inv = true := by
  have ho := Pe.inv_setPowerOption h p option
  unfold Pe.initTarget
  dsimp only
  split
  · exact ho
  · exact Pe.inv_setPps ho ..

/-! ## PL: the ready snapshot -/

theorem Pl.inv_iff {p : Pl} :
    p.inv = true ↔ (p.readyStatus = .notAvailable → p.readyMv = 0 ∧ p.readyMa = 0) := by
  simp only [Pl.inv, Bool.or_eq_true, bne_iff_ne, Bool.and_eq_true, beq_iff_eq, ne_eq, imp_iff_not_or]

theorem Pl.inv_notReady (p : Pl) : p.notReady.inv = true := rfl

theorem Pl.inv_withReady (p : Pl) {st : ReadyStatus} (hst : st ≠ .notAvailable) (mv ma : BitVec 32) :
    (p.withReady st mv ma).inv = true := Pl.inv_iff.2 fun h => absurd h hst

/-! ## FR: the open pins and the received objects -/

theorem Fr.inv_iff {f : Fr} : f.inv = true ↔ f.unattachedOpen = true ∧ f.rxTailZero = true := by
  simp only [Fr.inv, Bool.and_eq_true]

/-- With both pins open and none selected, any attach state is legal. -/
theorem Fr.inv_opened {f g : Fr} (h : f.inv = true) (hrx : g.rxTailZero = f.rxTailZero) (hsel : g.ccSel = .none)
    (h1 : g.cc1 = .opn) (h2 : g.cc2 = .opn) : g.inv = true :=
  Fr.inv_iff.2 ⟨by simp [Fr.unattachedOpen, hsel, h1, h2], hrx.trans (Fr.inv_iff.1 h).2⟩

/-- While Attached the pins may be anything. -/
theorem Fr.inv_attached {f g : Fr} (h : f.inv = true) (hrx : g.rxTailZero = f.rxTailZero) (ha : g.attach = .attached) :
    g.inv = true :=
  Fr.inv_iff.2 ⟨by rw [Fr.unattachedOpen, ha]; rfl, hrx.trans (Fr.inv_iff.1 h).2⟩

/-- A frame's registers are written with 0 at and above its count (40_framer.md R138). -/
theorem Fr.inv_received {f : Fr} (h : f.inv = true) (b p : List Byte) : (f.received b p).inv = true := by
  refine Fr.inv_iff.2 ⟨(Fr.inv_iff.1 h).1, ?_⟩
  have hget : ∀ i < 7, (f.received b p).rxObj.get i = rxObjAt p (objectCount (f.received b p).rxHdr) i := by
    intro i hi
    interval_cases i <;> rfl
  simp only [Fr.rxTailZero, List.all_eq_true, Bool.or_eq_true, decide_eq_true_eq, beq_iff_eq, List.mem_range]
  intro i hi
  rw [hget i hi, rxObjAt]
  split
  · exact .inl ‹_›
  · exact .inr rfl

/-- "else return E" keeps FR's invariant where both its ends do: the primitive itself touches no register. -/
theorem State.attempt_frInv {s : State} {c : XCall} {f : Status → State → Status × State}
    {k : XAnswer → State → Status × State} (hf : ∀ st, (f st (s.issue c).2).2.fr.inv = true)
    (hk : (k (s.issue c).1 (s.issue c).2).2.fr.inv = true) : (s.attempt c f k).2.fr.inv = true :=
  frStep_attempt (fun r : Status × State => r.2.fr.inv = true) hf hk

/-- The same inside a poll. -/
theorem State.attempt_pollInv {s : State} {c : XCall} {f : Status → State → Polled} {k : XAnswer → State → Polled}
    (hf : ∀ st, (f st (s.issue c).2).state.fr.inv = true)
    (hk : (k (s.issue c).1 (s.issue c).2).state.fr.inv = true) : (s.attempt c f k).state.fr.inv = true :=
  frStep_attempt (fun r : Polled => r.state.fr.inv = true) hf hk

theorem frConfigure_inv {s : State} (h : s.fr.inv = true) : s.frConfigure.2.fr.inv = true :=
  State.attempt_frInv (fun _ => h) (State.attempt_frInv (fun _ => h) (State.attempt_frInv (fun _ => h)
    (Fr.inv_opened h rfl rfl rfl rfl)))

theorem frInit_inv {s : State} (h : s.fr.inv = true) : s.frInit.2.fr.inv = true := by
  refine State.attempt_frInv (fun _ => h) (State.attempt_frInv (fun _ => h) ?_)
  split
  · exact frConfigure_inv h
  · exact h

/-- A sample writes no register of FR. -/
theorem resample_fr (pin : Pin) (l : LineLevel) (n : Nat) (s : State) : (resample pin l n s).state.fr = s.fr := by
  induction n generalizing s with
  | zero => rfl
  | succ n ih =>
    refine frStep_attempt (fun r : Sampled => r.state.fr = s.fr) (fun _ => rfl) ?_
    split
    · exact ih _
    · rfl

theorem stableSample_fr (s : State) (pin : Pin) : (s.stableSample pin).state.fr = s.fr :=
  frStep_attempt (fun r : Sampled => r.state.fr = s.fr) (fun _ => rfl) (resample_fr ..)

theorem pollAttach_inv {s : State} (h : s.fr.inv = true) (l1 l2 : LineLevel) :
    (s.pollAttach l1 l2).state.fr.inv = true :=
  State.attempt_pollInv (fun _ => h) (State.attempt_pollInv (fun _ => h) (Fr.inv_attached h rfl rfl))

theorem pollSample_inv {s : State} (h : s.fr.inv = true) : s.pollSample.state.fr.inv = true := by
  have h1 : (s.stableSample .cc1).state.fr.inv = true := (stableSample_fr s .cc1).symm ▸ h
  have h2 : ((s.stableSample .cc1).state.stableSample .cc2).state.fr.inv = true :=
    (stableSample_fr _ .cc2).symm ▸ h1
  unfold State.pollSample
  dsimp only
  split
  · exact h1
  · split
    · exact h2
    · exact pollAttach_inv h2 _ _

theorem pollUnattached_inv {s : State} (h : s.fr.inv = true) : s.pollUnattached.state.fr.inv = true := by
  refine State.attempt_pollInv (fun _ => h) ?_
  split
  · exact State.attempt_pollInv (fun _ => h) (pollSample_inv h)
  · exact h

theorem pollDetach_inv {s : State} (h : s.fr.inv = true) : s.pollDetach.state.fr.inv = true :=
  State.attempt_pollInv (fun _ => h) (State.attempt_pollInv (fun _ => h) (Fr.inv_opened h rfl rfl rfl rfl))

theorem pollReceive_inv {s : State} (h : s.fr.inv = true) (e : Bool) (ev : FrEvents) :
    (s.pollReceive e ev).state.fr.inv = true := by
  unfold State.pollReceive
  split
  · exact h
  · exact State.attempt_pollInv (fun _ => h) (State.attempt_pollInv (fun _ => h) (Fr.inv_received h _ _))

theorem pollLatched_inv {s : State} (h : s.fr.inv = true) (x : XStatus) : (s.pollLatched x).state.fr.inv = true := by
  unfold State.pollLatched
  split
  · exact State.attempt_pollInv (fun _ => h) h
  · split
    · exact State.attempt_pollInv (fun _ => h) (pollReceive_inv (s := (s.issue .clearGcrcSent).2) h _ _)
    · exact pollReceive_inv h _ _

theorem pollAttached_inv {s : State} (h : s.fr.inv = true) : s.pollAttached.state.fr.inv = true := by
  refine State.attempt_pollInv (fun _ => h) ?_
  dsimp only
  split
  · refine pollDetach_inv ?_
    exact h
  · refine pollLatched_inv ?_ _
    exact h

theorem frPoll_inv {s : State} (h : s.fr.inv = true) : s.frPoll.state.fr.inv = true := by
  cases hr : s.fr.ready with
  | false => rw [State.frPoll_notReady hr]; exact h
  | true =>
    cases ha : s.fr.attach with
    | unattached => rw [State.frPoll_unattached hr ha]; exact pollUnattached_inv h
    | attached => rw [State.frPoll_attached hr ha]; exact pollAttached_inv h

/-- A write touches no register of FR. -/
theorem frTxFrame_fr (s : State) (hd : Half) (objs : List Obj) : (s.frTxFrame hd objs).2.fr = s.fr := by
  rcases s.frTxFrame_cases hd objs with ⟨-, e⟩ | ⟨-, -, e⟩ | ⟨-, -, e⟩ <;> rw [e]
  · exact State.after_fr ..
  · exact State.after_fr ..

theorem frTxHardReset_fr (s : State) : s.frTxHardReset.2.fr = s.fr := by
  cases hr : s.fr.ready with
  | false => rw [State.frTxHardReset_notReady hr]
  | true =>
    rw [State.frTxHardReset_ready hr]
    exact frStep_attempt (fun r : Status × State => r.2.fr = s.fr) (fun _ => rfl)
      (frStep_attempt (fun r : Status × State => r.2.fr = s.fr) (fun _ => rfl) rfl)

theorem frSetVbusSense_inv {s : State} (h : s.fr.inv = true) (en : Bool) : (s.frSetVbusSense en).2.fr.inv = true := by
  unfold State.frSetVbusSense
  split <;> exact h

/-! ## The whole machine: well-formed codes and the invariants, kept together -/

/-- What every step keeps: the premise on the codes and the invariants of 10_state.md R46. -/
def State.sound (s : State) : Prop := s.params.codes.wf = true ∧ s.inv = true

theorem State.sound_iff {s : State} :
    s.sound ↔ s.params.codes.wf = true ∧ s.fr.inv = true ∧ s.pe.inv = true ∧ s.pl.inv = true := by
  simp only [State.sound, State.inv, Bool.and_eq_true, and_assoc]

theorem State.sound.frInv {s : State} (h : s.sound) : s.fr.inv = true := (State.sound_iff.1 h).2.1
theorem State.sound.peInv {s : State} (h : s.sound) : s.pe.inv = true := (State.sound_iff.1 h).2.2.1
theorem State.sound.plInv {s : State} (h : s.sound) : s.pl.inv = true := (State.sound_iff.1 h).2.2.2

/-- Soundness after registers were written: the clock, the trace, the log and the port play no part. -/
theorem State.sound.update {s t : State} (h : s.sound) (hp : t.params = s.params) (hf : t.fr.inv = true)
    (he : t.pe.inv = true) (hl : t.pl.inv = true) : t.sound :=
  State.sound_iff.2 ⟨hp ▸ (State.sound_iff.1 h).1, hf, he, hl⟩

theorem State.sound.withPe {s : State} (h : s.sound) {pe : Pe} (he : pe.inv = true) : State.sound { s with pe := pe } :=
  h.update rfl h.frInv he h.plInv

theorem State.sound.withPl {s : State} (h : s.sound) {pl : Pl} (hl : pl.inv = true) : State.sound { s with pl := pl } :=
  h.update rfl h.frInv h.peInv hl

/-- Flags and timers of PL play no part, only the ready snapshot does. -/
theorem State.sound.withFlags {s : State} (h : s.sound) {pl : Pl} (hst : pl.readyStatus = s.pl.readyStatus := by rfl)
    (hmv : pl.readyMv = s.pl.readyMv := by rfl) (hma : pl.readyMa = s.pl.readyMa := by rfl) :
    State.sound { s with pl := pl } :=
  h.withPl (by rw [Pl.inv_iff, hst, hmv, hma]; exact Pl.inv_iff.1 h.plInv)

theorem State.sound.log {s : State} (h : s.sound) (k : LogKind) (hd : Option Half) (os : List Obj) :
    (s.log k hd os).sound := h.update rfl h.frInv h.peInv h.plInv

theorem State.sound.reply {s : State} (h : s.sound) (bs : List Byte) : (s.reply bs).sound :=
  h.update rfl h.frInv h.peInv h.plInv

theorem State.sound.delay {s : State} (h : s.sound) (n : Nat) : (s.delay n).sound :=
  h.update rfl h.frInv h.peInv h.plInv

theorem State.sound.accept {s : State} (h : s.sound) (x : Stimulus) (rest : List Stimulus) : (s.accept x rest).sound :=
  h.update rfl h.frInv h.peInv h.plInv

/-- The framer has run: only FR's invariant is in question. -/
theorem State.sound_frStep {s t : State} (h : s.sound) (hk : frStep s t) (hf : t.fr.inv = true) : t.sound := by
  obtain ⟨hpe, hpl, -, hp, -⟩ := hk
  exact h.update hp hf (hpe ▸ h.peInv) (hpl ▸ h.plInv)

/-! ## The framer's operations -/

theorem frInit_sound {s : State} (h : s.sound) : s.frInit.2.sound :=
  State.sound_frStep h (frInit_step s) (frInit_inv h.frInv)

theorem frPoll_sound {s : State} (h : s.sound) : s.frPoll.state.sound :=
  State.sound_frStep h (frPoll_step s) (frPoll_inv h.frInv)

theorem frTxFrame_sound {s : State} (h : s.sound) (hd : Half) (objs : List Obj) : (s.frTxFrame hd objs).2.sound :=
  State.sound_frStep h (frTxFrame_step s hd objs) ((frTxFrame_fr s hd objs).symm ▸ h.frInv)

theorem frTxHardReset_sound {s : State} (h : s.sound) : s.frTxHardReset.2.sound :=
  State.sound_frStep h (frTxHardReset_step s) ((frTxHardReset_fr s).symm ▸ h.frInv)

theorem frSetVbusSense_sound {s : State} (h : s.sound) (en : Bool) : (s.frSetVbusSense en).2.sound :=
  State.sound_frStep h (frSetVbusSense_step s en) (frSetVbusSense_inv h.frInv en)

/-! ## PL's operations (spec/44_policy.md) -/

theorem defaultPower_sound {s : State} (h : s.sound) : s.defaultPower.sound :=
  ((frSetVbusSense_sound h true).withPl (Pl.inv_withReady _ (by decide) _ _)).log _ _ _

theorem restage_sound {s : State} (h : s.sound) : s.restage.sound := by
  unfold State.restage
  split
  · exact State.sound.withPe h.withFlags (Pe.inv_setPps h.peInv ..)
  · exact h

theorem plInit_sound {s : State} (h : s.sound) (option : Byte) (mv ma : Half) : (s.plInit option mv ma).2.sound := by
  have hfr : (State.frInit { s with pe := Pe.reset, pl := s.pl.cleared }).2.sound :=
    frInit_sound ((h.withPl (Pl.inv_notReady s.pl)).withPe Pe.inv_reset)
  unfold State.plInit
  dsimp only
  split
  · refine State.sound.withFlags (restage_sound ?_)
    exact hfr.withPe (Pe.inv_initTarget hfr.peInv ..)
  · exact hfr

theorem onAttached_sound {s : State} (h : s.sound) : s.onAttached.sound := by
  have h1 := ((h.withFlags (pl := s.pl.clearWaits)).withPe (Pe.inv_clear h.peInv)).log .attach none []
  unfold State.onAttached
  dsimp only
  split
  · refine State.sound.withFlags (restage_sound ?_)
    exact h1.withPl (Pl.inv_notReady _)
  · exact defaultPower_sound h1

theorem onDetached_sound {s : State} (h : s.sound) : s.onDetached.sound :=
  ((h.withPl (Pl.inv_notReady s.pl.clearWaits)).withPe (Pe.inv_clear h.peInv)).log _ _ _

theorem srcCapTimeout_sound {s : State} (h : s.sound) : s.srcCapTimeout.2.sound := by
  unfold State.srcCapTimeout
  dsimp only
  split
  · refine State.sound.log (frTxFrame_sound ?_ _ _) _ _ _
    exact h.withFlags
  · have h0 := h.withFlags (pl := { s.pl with tSrcCap := s.env.now, srcCapRetry := 0 })
    have h1 := (frTxHardReset_sound h0).log .transmit none []
    exact (h1.withPl (Pl.inv_notReady _)).withPe (Pe.inv_clear h1.peInv)

theorem sendRequest_sound {s : State} (h : s.sound) : s.sendRequest.2.sound := by
  have h1 := frTxFrame_sound h (s.pe.buildRequest s.params).header (s.pe.buildRequest s.params).objs
  unfold State.sendRequest
  dsimp only
  split
  · exact (h1.log _ _ _).withFlags
  · exact h1.log _ _ _

theorem onGoodCrcSent_sound {s : State} (h : s.sound) : s.onGoodCrcSent.2.sound := by
  have h1 := h.delay s.params.tGuardMs
  unfold State.onGoodCrcSent
  dsimp only
  split
  · exact h1
  · have h2 := fun hd os => (frTxFrame_sound h1 hd os).log .transmit (some hd) os
    split
    · exact (h2 _ _).withFlags
    · exact h2 _ _

theorem onSourceCap_sound {s : State} (h : s.sound) : s.onSourceCap.sound :=
  State.sound.log h.withFlags _ _ _

theorem secondStage_sound {s : State} (h : s.sound) : s.secondStage.sound := by
  unfold State.secondStage
  split
  · exact h
  · exact State.sound.withPe h.withFlags (Pe.inv_setPps h.peInv ..)

theorem onPsRdy_sound {s : State} (h : s.sound) : s.onPsRdy.sound := by
  have h1 := h.withFlags (pl := { s.pl with waitPsRdy := false })
  unfold State.onPsRdy
  dsimp only
  split
  · split
    · exact defaultPower_sound h1
    · split
      · exact secondStage_sound (((frSetVbusSense_sound h1 false).withPl (Pl.inv_withReady _ (by decide) _ _)).log _ _ _)
      · exact ((frSetVbusSense_sound h1 true).withPl (Pl.inv_withReady _ (by decide) _ _)).log _ _ _
  · exact h

theorem psRdyTimeout_sound {s : State} (h : s.sound) : s.psRdyTimeout.sound :=
  defaultPower_sound h.withFlags

theorem onRejected_sound {s : State} (h : s.sound) : s.onRejected.sound := by
  unfold State.onRejected
  dsimp only
  split
  · refine State.sound.withFlags (defaultPower_sound ?_)
    exact h.withFlags
  · exact h

/-- An action taken or not. -/
theorem State.sound_ite {s t : State} (b : Bool) (ht : t.sound) (hs : s.sound) : (if b then t else s).sound := by
  split
  · exact ht
  · exact hs

theorem onPeEvents_sound {s : State} (h : s.sound) (ev : PeEvents) : (s.onPeEvents ev).sound := by
  have h1 := State.sound_ite ev.sourceCapReceived (onSourceCap_sound h) h
  have h2 := State.sound_ite ev.psRdy (onPsRdy_sound h1) h1
  exact State.sound_ite ev.rejected (onRejected_sound h2) h2

theorem logReceived_sound {s : State} (h : s.sound) : s.logReceived.sound := by
  have h1 := h.log .receive (some s.fr.rxHdr) s.fr.rxObj.toList
  exact State.sound_ite _ (h1.log .reject none []) h1

theorem onRxFrame_sound {s : State} (h : s.sound) : s.onRxFrame.sound :=
  have h1 := logReceived_sound h
  onPeEvents_sound (h1.withPe (Pe.inv_handleMsg h1.peInv ..)) _

theorem onFrEvents_sound {s : State} (h : s.sound) (ev : FrEvents) : (s.onFrEvents ev).2.sound := by
  have h1 := State.sound_ite ev.detached (onDetached_sound h) h
  have h2 := State.sound_ite ev.attached (onAttached_sound h1) h1
  have h3 := State.sound_ite ev.rxFrame (onRxFrame_sound h2) h2
  unfold State.onFrEvents
  dsimp only
  split
  · exact onGoodCrcSent_sound h3
  · exact h3

theorem pollTries_sound {s : State} (h : s.sound) (n : Nat) : (pollTries n s).state.sound := by
  induction n generalizing s with
  | zero => exact frPoll_sound h
  | succ n ih =>
    unfold pollTries
    split
    · exact ih (frPoll_sound h)
    · exact frPoll_sound h

theorem pollAndDispatch_sound {s : State} (h : s.sound) : s.pollAndDispatch.2.sound := by
  have h1 := pollTries_sound (h.withFlags (pl := { s.pl with tPoll := s.env.now })) (s.params.nPollTries - 1)
  unfold State.pollAndDispatch
  dsimp only
  split
  · exact onFrEvents_sound h1 _
  · exact h1

theorem phaseSrcCap_sound {s : State} (h : s.sound) : s.phaseSrcCap.2.sound := by
  unfold State.phaseSrcCap
  split
  · exact srcCapTimeout_sound h
  · exact h

theorem phaseRequest_sound {s : State} (h : s.sound) : s.phaseRequest.2.sound := by
  unfold State.phaseRequest
  split
  · split
    · exact psRdyTimeout_sound h
    · exact h
  · split
    · exact sendRequest_sound h
    · exact h

theorem phasePoll_sound {s : State} (h : s.sound) : s.phasePoll.2.sound := by
  unfold State.phasePoll
  split
  · exact pollAndDispatch_sound h
  · exact h

theorem plTick_sound {s : State} (h : s.sound) : s.plTick.2.sound := by
  unfold State.plTick
  split
  · exact phasePoll_sound (phaseRequest_sound (phaseSrcCap_sound h))
  · exact h

theorem reqPps_sound {s : State} (h : s.sound) (mv ma : Half) : (s.reqPps mv ma).2.2.sound := by
  unfold State.reqPps
  dsimp only
  split
  · split
    · exact h
    · split
      · exact State.sound.withPe h.withFlags (Pe.inv_setPps h.peInv ..)
      · exact h
  · exact h

theorem reqOpt_sound {s : State} (h : s.sound) (option : Byte) : (s.reqOpt option).2.sound := by
  unfold State.reqOpt
  dsimp only
  split
  · exact State.sound.withPe h.withFlags (Pe.inv_setPowerOption h.peInv ..)
  · exact h

/-! ## Every instruction, and the step -/

/-- The next state, where there is one, is sound. -/
def soundOutcome (o : Host.Outcome State Fault Refusal) : Prop := ∀ t, o = .next t → t.sound

theorem soundOutcome_next {t : State} (h : t.sound) : soundOutcome (.next t) :=
  fun _ e => Host.Outcome.next.inj e ▸ h

/-- A command that writes PE only. -/
theorem soundOutcome_pe {s : State} (h : s.sound) {pe : Pe} (he : pe.inv = true) (bs : List Byte) :
    soundOutcome (.next (State.reply { s with pe := pe } bs)) :=
  soundOutcome_next ((h.withPe he).reply bs)

/-- The index of a row up to the catch-all's is legal (10_state.md R32). -/
theorem typeCode_le {p : Params} (hp : p.codes.wf = true) {t : Table} (ht : t ≠ .none) {k : BitVec 5}
    (hk : k.toNat ≤ lastIndex t) : (typeCode p t k).toNat ≤ lastIndex t := by
  rcases Nat.lt_or_eq_of_le hk with hlt | heq
  · exact Nat.le_of_lt (typeCode_lt hp ht hlt)
  · have hlen := (codesPermute_iff.1 (tableCodes_permute hp ht)).1
    rw [typeCode, codeIn, List.getD_eq_default _ _ (by omega)]
    exact hk

theorem receiving_inv {s : State} (h : s.sound) {t : Table} (ht : t ≠ .none) {k : BitVec 5}
    (hk : k.toNat ≤ lastIndex t) : (s.receiving t k).inv = true :=
  Pe.inv_setCurrent h.peInv (typeCode_le h.1 ht hk)

/-- A message of an entry with no handler. -/
theorem soundOutcome_plain {s : State} (h : s.sound) (t : Table) (k : BitVec 5) (ht : t ≠ .none := by decide)
    (hk : k.toNat ≤ lastIndex t := by decide) : soundOutcome (s.receivedPlain t k) :=
  soundOutcome_pe h (receiving_inv h ht hk) _

/-- A message of an entry with a handler, run on at most seven objects. -/
theorem soundOutcome_handled {s : State} (h : s.sound) (t : Table) (k : BitVec 5) (hd : Handler) {objs : List Obj}
    (h7 : objs.length ≤ 7) (ht : t ≠ .none := by decide) (hk : k.toNat ≤ lastIndex t := by decide) :
    soundOutcome (s.received ((s.receiving t k).runHandler s.params objs (some hd))) :=
  soundOutcome_pe h (Pe.inv_runHandler (receiving_inv h ht hk) s.params h7 (some hd)) _

/-- Every instruction with well-formed operands keeps a sound state sound. -/
theorem exec_sound {i : Instr} {s : State} (hi : i.wf = true) (h : s.sound) : soundOutcome (exec i s) := by
  cases i with
  | isTrans | getMv | getMa | getMw | getReady | frReadCc | frReadVbus | frReadId | frGetRx | peRespond
  | peEvaluate | peCreateGetSrcCap | peCreateGetPpsStatus | peCreateRequest | peGetPowerInfo | peGetSelected
  | peGetPpsStatus | peGetTarget | cmdReserved | txAccept | txReject | txGetSourceCap | txNotSupported
  | txGetPpsStatus | txRequest | txSinkCapabilities | txSinkCapabilitiesExtended =>
    exact soundOutcome_next (h.reply _)
  | init option mv ma => exact soundOutcome_next ((plInit_sound h option mv ma).reply _)
  | tick => exact soundOutcome_next ((plTick_sound h).reply _)
  | reqPps mv ma => exact soundOutcome_next ((reqPps_sound h mv ma).reply _)
  | reqOpt option => exact soundOutcome_next ((reqOpt_sound h option).reply _)
  | frInit => exact soundOutcome_next ((frInit_sound h).reply _)
  | frPoll => exact soundOutcome_next ((frPoll_sound h).reply _)
  | frSetVbusSense en => exact soundOutcome_next ((frSetVbusSense_sound h (en != 0)).reply _)
  | frTxFrame hd objs => exact soundOutcome_next ((frTxFrame_sound h hd objs).reply _)
  | frTxHardReset => exact soundOutcome_next ((frTxHardReset_sound h).reply _)
  | peInit => exact soundOutcome_pe h Pe.inv_reset _
  | peReset => exact soundOutcome_pe h (Pe.inv_clear h.peInv) _
  | peHandleMsg hd objs => exact soundOutcome_pe h (Pe.inv_handleMsg h.peInv s.params hd objs) _
  | peSetPowerOption option => exact soundOutcome_pe h (Pe.inv_setPowerOption h.peInv s.params option) _
  | peSelectPower index => exact soundOutcome_pe h (Pe.inv_selectPower h.peInv index) _
  | peSetPps v i strict => exact soundOutcome_pe h (Pe.inv_setPps h.peInv s.params v i (strict != 0)) _
  | rxGoodCrc => exact soundOutcome_handled h .ctrl 1 .goodCrc (objs := []) (Nat.zero_le 7)
  | rxAccept => exact soundOutcome_handled h .ctrl 3 .accept (objs := []) (Nat.zero_le 7)
  | rxReject => exact soundOutcome_handled h .ctrl 4 .reject (objs := []) (Nat.zero_le 7)
  | rxPsRdy => exact soundOutcome_handled h .ctrl 6 .psRdy (objs := []) (Nat.zero_le 7)
  | rxSourceCapabilities f objs =>
    have h7 : objs.length ≤ 7 := of_decide_eq_true (Bool.and_eq_true_iff.1 hi).2
    exact soundOutcome_handled h .data 1 .sourceCap h7
  | rxPpsStatus f objs =>
    have h7 : objs.length ≤ 7 := of_decide_eq_true hi
    exact soundOutcome_handled h .ext 12 .ppsStatus h7
  | rxCReserved0 | rxGotoMin | rxPing | rxGetSourceCap | rxGetSinkCap | rxDrSwap | rxPrSwap | rxVconnSwap
  | rxWait | rxSoftReset | rxDataReset | rxDataResetComplete | rxNotSupported | rxGetSourceCapExtended
  | rxGetStatus | rxFrSwap | rxGetPpsStatus | rxGetCountryCodes | rxGetSinkCapExtended | rxCOther =>
    exact soundOutcome_plain h .ctrl _
  | rxDReserved0 | rxRequest | rxBist | rxSinkCapabilities | rxBatteryStatus | rxAlert | rxGetCountryInfo
  | rxEnterUsb | rxDReserved9 | rxDReserved10 | rxDReserved11 | rxDReserved12 | rxDReserved13 | rxDReserved14
  | rxVendorDefined | rxDOther =>
    exact soundOutcome_plain h .data _
  | rxEReserved0 | rxSourceCapabilitiesExtended | rxStatus | rxGetBatteryCap | rxGetBatteryStatus
  | rxBatteryCapabilities | rxGetManufacturerInfo | rxManufacturerInfo | rxSecurityRequest | rxSecurityResponse
  | rxFirmwareUpdateRequest | rxFirmwareUpdateResponse | rxCountryInfo | rxCountryCodes
  | rxSinkCapabilitiesExtended | rxEOther =>
    exact soundOutcome_plain h .ext _

/-- What a step that answers a next state has done: nothing, or the instruction of the first stimulus. -/
theorem step_next {s t : State} (h : step s = .next t) :
    (s.port.inbox = [] ∧ t = s) ∨
    ∃ x rest i, s.port.inbox = x :: rest ∧ x.overlaps = false ∧ decodeAt s.params.codes x.fmt x.bytes = .instr i ∧
      exec i (s.accept x rest) = .next t := by
  unfold step at h
  split at h
  · exact .inl ⟨‹_›, (Host.Outcome.next.inj h).symm⟩
  · split at h
    · cases h
    · split at h
      · exact .inr ⟨_, _, _, ‹_›, Bool.eq_false_iff.2 ‹_›, ‹_›, h⟩
      · cases h

/-- Settles O11: what the decoder reads is well-formed (`encodeOfDecode`), and every well-formed instruction
keeps the state sound. -/
theorem everyStepKeepsTheInvariants : Obligations.EveryStepKeepsTheInvariants := by
  intro s t hw hinv hstep
  have h : s.sound := ⟨hw, hinv⟩
  rcases step_next hstep with ⟨-, rfl⟩ | ⟨x, rest, i, -, -, hdec, hexec⟩
  · exact h
  · obtain ⟨hwf, -⟩ := encodeOfDecode _ _ _ _ hw hdec
    exact exec_sound hwf (h.accept x rest) t hexec

end Sys2Proof.Machine

/-! PROOFS. Ownership (10_state.md R21): what each operation leaves as it is, and so what every instruction does (O14). -/

namespace Sys2Proof.Machine

open Sys2Proof.Config

/-! ## What no operation of the block touches -/

/-- t has the parameters and the command port that s has, and a trace, a count of primitives and a log that go on from
s's: an operation of the block has run. -/
def blockStep (s t : State) : Prop :=
  t.params = s.params ∧ t.port = s.port ∧ s.env.oracle ≤ t.env.oracle ∧
    (∃ cs, t.env.calls = s.env.calls ++ cs) ∧ ∃ l, t.env.log = s.env.log ++ l

theorem blockStep_refl (s : State) : blockStep s s :=
  ⟨rfl, rfl, Nat.le_refl _, ⟨[], (List.append_nil _).symm⟩, [], (List.append_nil _).symm⟩

theorem blockStep_trans {s t u : State} (h1 : blockStep s t) (h2 : blockStep t u) : blockStep s u := by
  obtain ⟨hp1, hq1, ho1, ⟨c, hc⟩, l, hl⟩ := h1
  obtain ⟨hp2, hq2, ho2, ⟨d, hd⟩, m, hm⟩ := h2
  exact ⟨hp2.trans hp1, hq2.trans hq1, ho1.trans ho2, ⟨c ++ d, by rw [hd, hc, List.append_assoc]⟩,
    l ++ m, by rw [hm, hl, List.append_assoc]⟩

/-- Registers of the three units may change besides. -/
theorem blockStep_units {s t : State} (h : blockStep s t) (fr : Fr) (pe : Pe) (pl : Pl) :
    blockStep s { t with fr := fr, pe := pe, pl := pl } := h

theorem blockStep_log {s t : State} (h : blockStep s t) (k : LogKind) (hd : Option Half) (os : List Obj) :
    blockStep s (t.log k hd os) := by
  obtain ⟨hp, hq, ho, hc, l, hl⟩ := h
  exact ⟨hp, hq, ho, hc, _, by rw [State.log_env_log, hl, List.append_assoc]⟩

/-- An action taken or not. -/
theorem blockStep_ite {s t u : State} (b : Bool) (ht : blockStep s t) (hu : blockStep s u) :
    blockStep s (if b then t else u) := by
  split
  · exact ht
  · exact hu

theorem frStep.pe_eq {s t : State} (h : frStep s t) : t.pe = s.pe := h.1
theorem frStep.pl_eq {s t : State} (h : frStep s t) : t.pl = s.pl := h.2.1

/-- The framer's operations are operations of the block. -/
theorem frStep.blockStep {s t : State} (h : frStep s t) : blockStep s t := by
  obtain ⟨-, -, hq, hp, -, hl, ho, hc⟩ := h
  exact ⟨hp, hq, ho, hc, [], by rw [hl, List.append_nil]⟩

/-! ## PL's operations (spec/44_policy.md) -/

theorem defaultPower_step (s : State) : blockStep s s.defaultPower := by
  rw [State.defaultPower_eq]
  exact blockStep_log (blockStep_units (blockStep_refl s) _ _ _) _ _ _

theorem restage_step (s : State) : blockStep s s.restage := by
  unfold State.restage
  split <;> exact blockStep_refl s

theorem plInit_step (s : State) (option : Byte) (mv ma : Half) : blockStep s (s.plInit option mv ma).2 := by
  have hfr : blockStep s (State.frInit { s with pe := Pe.reset, pl := s.pl.cleared }).2 := (frInit_step _).blockStep
  unfold State.plInit
  dsimp only
  split
  · exact blockStep_trans hfr (restage_step { (State.frInit _).2 with pe := _ })
  · exact hfr

theorem onAttached_step (s : State) : blockStep s s.onAttached := by
  have hlog : blockStep s (State.log { s with pe := s.pe.clear, pl := s.pl.clearWaits } .attach none []) :=
    blockStep_log (blockStep_units (blockStep_refl s) _ _ _) _ _ _
  unfold State.onAttached
  dsimp only
  split
  · exact blockStep_trans hlog (restage_step { State.log _ _ _ _ with pl := _ })
  · exact blockStep_trans hlog (defaultPower_step _)

theorem onDetached_step (s : State) : blockStep s s.onDetached :=
  blockStep_log (blockStep_units (blockStep_refl s) _ _ _) _ _ _

theorem srcCapTimeout_step (s : State) : blockStep s s.srcCapTimeout.2 := by
  unfold State.srcCapTimeout
  dsimp only
  split
  · exact blockStep_log (frTxFrame_step _ _ _).blockStep _ _ _
  · exact blockStep_log (frTxHardReset_step _).blockStep _ _ _

theorem sendRequest_step (s : State) : blockStep s s.sendRequest.2 := by
  unfold State.sendRequest
  dsimp only
  split <;> exact blockStep_log (frTxFrame_step _ _ _).blockStep _ _ _

theorem onGoodCrcSent_step (s : State) : blockStep s s.onGoodCrcSent.2 := by
  have hd : blockStep s (s.delay s.params.tGuardMs) := (frStep_delay _ _).blockStep
  unfold State.onGoodCrcSent
  dsimp only
  split
  · exact hd
  · split <;> exact blockStep_log (blockStep_trans hd (frTxFrame_step _ _ _).blockStep) _ _ _

theorem onSourceCap_step (s : State) : blockStep s s.onSourceCap :=
  blockStep_log (blockStep_units (blockStep_refl s) _ _ _) _ _ _

theorem secondStage_step (s : State) : blockStep s s.secondStage := by
  unfold State.secondStage
  split <;> exact blockStep_refl s

theorem onPsRdy_step (s : State) : blockStep s s.onPsRdy := by
  unfold State.onPsRdy
  dsimp only
  split
  · split
    · exact defaultPower_step { s with pl := _ }
    · split
      · refine blockStep_trans ?_ (secondStage_step _)
        exact blockStep_log (frSetVbusSense_step _ _).blockStep _ _ _
      · exact blockStep_log (frSetVbusSense_step _ _).blockStep _ _ _
  · exact blockStep_refl s

theorem psRdyTimeout_step (s : State) : blockStep s s.psRdyTimeout := defaultPower_step { s with pl := _ }

theorem onRejected_step (s : State) : blockStep s s.onRejected := by
  unfold State.onRejected
  dsimp only
  split
  · exact defaultPower_step { s with pl := _ }
  · exact blockStep_refl s

theorem onPeEvents_step (s : State) (ev : PeEvents) : blockStep s (s.onPeEvents ev) := by
  have h1 := blockStep_ite ev.sourceCapReceived (onSourceCap_step s) (blockStep_refl s)
  have h2 := blockStep_ite ev.psRdy (blockStep_trans h1 (onPsRdy_step _)) h1
  exact blockStep_ite ev.rejected (blockStep_trans h2 (onRejected_step _)) h2

theorem logReceived_step (s : State) : blockStep s s.logReceived :=
  have h := blockStep_log (blockStep_refl s) .receive (some s.fr.rxHdr) s.fr.rxObj.toList
  blockStep_ite _ (blockStep_log h _ _ _) h

theorem onRxFrame_step (s : State) : blockStep s s.onRxFrame :=
  blockStep_trans (logReceived_step s) (onPeEvents_step { s.logReceived with pe := _ } _)

theorem onFrEvents_step (s : State) (ev : FrEvents) : blockStep s (s.onFrEvents ev).2 := by
  have h1 := blockStep_ite ev.detached (onDetached_step s) (blockStep_refl s)
  have h2 := blockStep_ite ev.attached (blockStep_trans h1 (onAttached_step _)) h1
  have h3 := blockStep_ite ev.rxFrame (blockStep_trans h2 (onRxFrame_step _)) h2
  unfold State.onFrEvents
  dsimp only
  split
  · exact blockStep_trans h3 (onGoodCrcSent_step _)
  · exact h3

theorem pollAndDispatch_step (s : State) : blockStep s s.pollAndDispatch.2 := by
  have h : blockStep s (s.settled.state.withUnits s.pe { s.pl with tPoll := s.env.now } s.port) := by
    obtain ⟨hp, -, ho, hc, hl⟩ := s.settled_step.blockStep
    exact ⟨hp, rfl, ho, hc, hl⟩
  rw [State.pollAndDispatch_eq]
  dsimp only
  split
  · exact blockStep_trans h (onFrEvents_step _ _)
  · exact h

theorem phaseSrcCap_step (s : State) : blockStep s s.phaseSrcCap.2 := by
  unfold State.phaseSrcCap
  split
  · exact srcCapTimeout_step s
  · exact blockStep_refl s

theorem phaseRequest_step (s : State) : blockStep s s.phaseRequest.2 := by
  unfold State.phaseRequest
  split
  · split
    · exact psRdyTimeout_step s
    · exact blockStep_refl s
  · split
    · exact sendRequest_step s
    · exact blockStep_refl s

theorem phasePoll_step (s : State) : blockStep s s.phasePoll.2 := by
  unfold State.phasePoll
  split
  · exact pollAndDispatch_step s
  · exact blockStep_refl s

theorem plTick_step (s : State) : blockStep s s.plTick.2 := by
  unfold State.plTick
  split
  · exact blockStep_trans (phaseSrcCap_step s) (blockStep_trans (phaseRequest_step _) (phasePoll_step _))
  · exact blockStep_refl s

/-- A reconfiguration writes the target and PL's flags, and READY_STATUS is none of them (44_policy.md R293, R294). -/
theorem reqPps_keeps (s : State) (mv ma : Half) :
    blockStep s (s.reqPps mv ma).2.2 ∧ (s.reqPps mv ma).2.2.fr = s.fr ∧ (s.reqPps mv ma).2.2.env = s.env ∧
      (s.reqPps mv ma).2.2.pl.readyStatus = s.pl.readyStatus := by
  have h := blockStep_refl s
  unfold State.reqPps
  dsimp only
  split
  · split
    · exact ⟨h, rfl, rfl, rfl⟩
    · split <;> exact ⟨h, rfl, rfl, rfl⟩
  · exact ⟨h, rfl, rfl, rfl⟩

/-- The same of an option (R295). -/
theorem reqOpt_keeps (s : State) (option : Byte) :
    blockStep s (s.reqOpt option).2 ∧ (s.reqOpt option).2.fr = s.fr ∧ (s.reqOpt option).2.env = s.env ∧
      (s.reqOpt option).2.pl.readyStatus = s.pl.readyStatus := by
  unfold State.reqOpt
  dsimp only
  split <;> exact ⟨blockStep_refl s, rfl, rfl, rfl⟩

/-- FR_SET_VBUS_SENSE writes a register and calls no primitive (40_framer.md R141). -/
theorem frSetVbusSense_env (s : State) (en : Bool) : (s.frSetVbusSense en).2.env = s.env := by
  unfold State.frSetVbusSense
  split <;> rfl

/-! ## Every instruction -/

/-- The framer's commands: PE and PL keep their registers. -/
theorem frStep.reply_keeps {s t : State} (h : frStep s t) (bs : List Byte) :
    (t.reply bs).params = s.params ∧ (t.reply bs).port.inbox = s.port.inbox ∧ (t.reply bs).pe = s.pe ∧
      (t.reply bs).pl = s.pl := by
  obtain ⟨hpe, hpl, hport, hparams, -⟩ := h
  exact ⟨hparams, by rw [State.reply_port, hport], hpe, hpl⟩

/-- PL's commands keep the parameters and the waiting commands. -/
theorem blockStep.reply_keeps {s t : State} (h : blockStep s t) (bs : List Byte) :
    (t.reply bs).params = s.params ∧ (t.reply bs).port.inbox = s.port.inbox := by
  obtain ⟨hparams, hport, -⟩ := h
  exact ⟨hparams, by rw [State.reply_port, hport]⟩

/-- Settles O14, by the instruction: INIT and TICK run operations of all units, the framer's commands only the framer's,
a reconfiguration PE's and PL's, a getter and a builder none, and every other instruction PE's alone. -/
theorem unitsKeepTheirOwnRegisters : Obligations.UnitsKeepTheirOwnRegisters := by
  intro i s
  cases i with
  | init option mv ma =>
    obtain ⟨hparams, hinbox⟩ := (plInit_step s option mv ma).reply_keeps _
    exact ⟨_, rfl, hparams, hinbox, trivial⟩
  | tick =>
    obtain ⟨hparams, hinbox⟩ := (plTick_step s).reply_keeps _
    exact ⟨_, rfl, hparams, hinbox, trivial⟩
  | reqPps mv ma =>
    obtain ⟨hstep, hfr, henv, -⟩ := reqPps_keeps s mv ma
    obtain ⟨hparams, hinbox⟩ := hstep.reply_keeps _
    exact ⟨_, rfl, hparams, hinbox, hfr, henv⟩
  | reqOpt option =>
    obtain ⟨hstep, hfr, henv, -⟩ := reqOpt_keeps s option
    obtain ⟨hparams, hinbox⟩ := hstep.reply_keeps _
    exact ⟨_, rfl, hparams, hinbox, hfr, henv⟩
  | frInit => exact ⟨_, rfl, (frInit_step s).reply_keeps _⟩
  | frPoll => exact ⟨_, rfl, (frPoll_step s).reply_keeps _⟩
  | frTxFrame hd objs => exact ⟨_, rfl, (frTxFrame_step s hd objs).reply_keeps _⟩
  | frTxHardReset => exact ⟨_, rfl, (frTxHardReset_step s).reply_keeps _⟩
  | frSetVbusSense en =>
    obtain ⟨hparams, hinbox, hpe, hpl⟩ := (frSetVbusSense_step s (en != 0)).reply_keeps _
    exact ⟨_, rfl, hparams, hinbox, hpe, hpl, frSetVbusSense_env s (en != 0)⟩
  | isTrans | getMv | getMa | getMw | getReady | frReadCc | frReadVbus | frReadId | frGetRx | peRespond
  | peEvaluate | peCreateGetSrcCap | peCreateGetPpsStatus | peCreateRequest | peGetPowerInfo | peGetSelected
  | peGetPpsStatus | peGetTarget | cmdReserved | txAccept | txReject | txGetSourceCap | txNotSupported
  | txGetPpsStatus | txRequest | txSinkCapabilities | txSinkCapabilitiesExtended =>
    exact ⟨_, rfl, rfl, rfl, rfl, rfl, rfl, rfl⟩
  | _ => exact ⟨_, rfl, rfl, rfl, rfl, rfl, rfl⟩

end Sys2Proof.Machine

/-! PROOFS. READY_STATUS becomes PPS only where PS_RDY is acted on, and what it then shows (O13; 10_state.md R38). -/

namespace Sys2Proof.Machine

open Sys2Proof.Config

/-! ## What a PPS contract is confirmed from -/

/-- p and q hold the same list, selection and target: a PS_RDY confirms the same contract in both. -/
def Pe.sameContract (p q : Pe) : Prop :=
  p.pdoCount = q.pdoCount ∧ p.srcPdo = q.srcPdo ∧ p.selected = q.selected ∧ p.ppsV = q.ppsV ∧ p.ppsI = q.ppsI

theorem Pe.sameContract_refl (p : Pe) : p.sameContract p := ⟨rfl, rfl, rfl, rfl, rfl⟩

theorem Pe.sameContract_trans {p q r : Pe} (h1 : p.sameContract q) (h2 : q.sameContract r) : p.sameContract r := by
  obtain ⟨hc1, hl1, hs1, hv1, hi1⟩ := h1
  obtain ⟨hc2, hl2, hs2, hv2, hi2⟩ := h2
  exact ⟨hc1.trans hc2, hl1.trans hl2, hs1.trans hs2, hv1.trans hv2, hi1.trans hi2⟩

/-- Where READY_STATUS of t is PPS, t shows the contract that pe describes: a live Augmented selection at the target's
values, no PS_RDY awaited any more and VBUS sensing off (44_policy.md R288). -/
def Pe.confirmedIn (pe : Pe) (t : State) : Prop :=
  t.pl.readyStatus = .pps →
    pe.selected.toNat < pe.pdoCount.toNat ∧ (pe.srcPdo.get pe.selected.toNat).extractLsb' 30 2 = 3 ∧
    t.pl.readyMv.toNat = pe.ppsV.toNat * 20 ∧ t.pl.readyMa.toNat = pe.ppsI.toNat * 50 ∧
    t.pl.waitPsRdy = false ∧ t.fr.vbusSenseEn = false

theorem Pe.confirmedIn_of_ne {pe : Pe} {t : State} (h : t.pl.readyStatus ≠ .pps) : pe.confirmedIn t :=
  fun hpps => absurd hpps h

theorem Pe.confirmedIn_congr {p q : Pe} {t : State} (h : p.sameContract q) (hq : p.confirmedIn t) : q.confirmedIn t := by
  obtain ⟨hc, hl, hs, hv, hi⟩ := h
  unfold Pe.confirmedIn at hq ⊢
  rwa [hc, hl, hs, hv, hi] at hq

/-- The framer is ready, READY_STATUS is not PPS, and a PS_RDY that is awaited would confirm the contract of pe. -/
def Pe.awaitedIn (pe : Pe) (s : State) : Prop :=
  s.fr.ready = true ∧ s.pl.readyStatus ≠ .pps ∧ (s.pl.waitPsRdy = true → s.pe.sameContract pe)

/-- With no PS_RDY awaited, none can confirm anything. -/
theorem Pe.awaitedIn_of_not_waiting {pe : Pe} {s : State} (hr : s.fr.ready = true) (hs : s.pl.readyStatus ≠ .pps)
    (hw : s.pl.waitPsRdy = false) : pe.awaitedIn s :=
  ⟨hr, hs, fun h => absurd (hw.symm.trans h) (by decide)⟩

@[simp] theorem pdoInfo_typ (w : Obj) : (pdoInfo w).typ = pdoType w := by
  unfold pdoInfo
  split <;> exact Eq.symm ‹_›

/-- A capability is Augmented by its bits [31:30] (30_encoding.md R100). -/
theorem pdoType_augmented {w : Obj} (h : pdoType w = .augmented) : w.extractLsb' 30 2 = 3 := by
  have hlt := (w.extractLsb' 30 2).isLt
  apply BitVec.eq_of_toNat_eq
  show _ = 3
  unfold pdoType field at h
  generalize (w.extractLsb' 30 2).toNat = n at h hlt ⊢
  match n with
  | 0 | 1 | 2 => cases h
  | 3 => rfl
  | n + 4 => omega

/-- What a capability that can be decoded says of the selection: it is live. -/
theorem Pe.powerInfo_eq_some {pe : Pe} {k : Nat} {i : PdoInfo} (h : pe.powerInfo k = some i) :
    k < pe.pdoCount.toNat ∧ i = pdoInfo (pe.srcPdo.get k) := by
  unfold Pe.powerInfo at h
  split at h
  · exact ⟨‹_›, (Option.some.inj h).symm⟩
  · cases h

/-- The millivolts and milliamperes of a target fit their registers (30_encoding.md R113). -/
theorem fromPps_toNat (v : Half) (i : Byte) :
    (fromPps v i).1.toNat = v.toNat * 20 ∧ (fromPps v i).2.toNat = i.toNat * 50 := by
  unfold fromPps
  constructor <;> bv_omega

/-! ## The operations that never make READY_STATUS PPS -/

@[simp] theorem defaultPower_readyStatus (s : State) : s.defaultPower.pl.readyStatus = .typical := rfl
@[simp] theorem defaultPower_pe (s : State) : s.defaultPower.pe = s.pe := by rw [State.defaultPower_eq]; rfl
@[simp] theorem defaultPower_ready (s : State) : s.defaultPower.fr.ready = s.fr.ready := by
  rw [State.defaultPower_eq]; rfl
@[simp] theorem defaultPower_waitPsRdy (s : State) : s.defaultPower.pl.waitPsRdy = s.pl.waitPsRdy := by
  rw [State.defaultPower_eq]; rfl

@[simp] theorem restage_fr (s : State) : s.restage.fr = s.fr := by unfold State.restage; split <;> rfl
@[simp] theorem restage_readyStatus (s : State) : s.restage.pl.readyStatus = s.pl.readyStatus := by
  unfold State.restage; split <;> rfl
@[simp] theorem restage_waitPsRdy (s : State) : s.restage.pl.waitPsRdy = s.pl.waitPsRdy := by
  unfold State.restage; split <;> rfl

@[simp] theorem secondStage_fr (s : State) : s.secondStage.fr = s.fr := by unfold State.secondStage; split <;> rfl
@[simp] theorem secondStage_readyMv (s : State) : s.secondStage.pl.readyMv = s.pl.readyMv := by
  unfold State.secondStage; split <;> rfl
@[simp] theorem secondStage_readyMa (s : State) : s.secondStage.pl.readyMa = s.pl.readyMa := by
  unfold State.secondStage; split <;> rfl
@[simp] theorem secondStage_waitPsRdy (s : State) : s.secondStage.pl.waitPsRdy = s.pl.waitPsRdy := by
  unfold State.secondStage; split <;> rfl

@[simp] theorem onSourceCap_readyStatus (s : State) : s.onSourceCap.pl.readyStatus = s.pl.readyStatus := rfl

theorem onRejected_readyStatus_ne {s : State} (h : s.pl.readyStatus ≠ .pps) : s.onRejected.pl.readyStatus ≠ .pps := by
  unfold State.onRejected
  split
  · exact fun hc => ReadyStatus.noConfusion hc
  · exact h

/-- INIT leaves PL as it cleared it, but for the second-stage target, T_POLL and PL_READY. -/
theorem plInit_readyStatus (s : State) (option : Byte) (mv ma : Half) :
    (s.plInit option mv ma).2.pl.readyStatus = .notAvailable := by
  have hpl : (State.frInit { s with pe := Pe.reset, pl := s.pl.cleared }).2.pl = s.pl.cleared := (frInit_step _).pl_eq
  have hfr := congrArg Pl.readyStatus hpl
  unfold State.plInit
  dsimp only
  split
  · exact (restage_readyStatus _).trans hfr
  · exact hfr

/-! ## Phase A of a TICK -/

/-- From s to r the contract stays, and READY_STATUS does not become PPS: what phase A of a TICK keeps. -/
def contractKept (s r : State) : Prop :=
  r.pe.sameContract s.pe ∧ (s.pl.readyStatus ≠ .pps → r.pl.readyStatus ≠ .pps)

theorem contractKept_refl (s : State) : contractKept s s := ⟨Pe.sameContract_refl _, id⟩

theorem contractKept_trans {s t u : State} (h1 : contractKept s t) (h2 : contractKept t u) : contractKept s u :=
  ⟨Pe.sameContract_trans h2.1 h1.1, h2.2 ∘ h1.2⟩

theorem frStep.contractKept {s t : State} (h : frStep s t) : contractKept s t := by
  obtain ⟨hpe, hpl, -⟩ := h
  exact ⟨hpe ▸ Pe.sameContract_refl _, fun hs => hpl ▸ hs⟩

theorem phaseSrcCap_contractKept (s : State) : contractKept s s.phaseSrcCap.2 := by
  unfold State.phaseSrcCap
  split
  · unfold State.srcCapTimeout
    dsimp only
    split
    · exact (frTxFrame_step _ _ _).contractKept
    · have hpe : (State.frTxHardReset { s with pl := { s.pl with tSrcCap := s.env.now, srcCapRetry := 0 } }).2.pe
          = s.pe := (frTxHardReset_step _).pe_eq
      refine ⟨?_, fun _ hc => ReadyStatus.noConfusion hc⟩
      show (State.frTxHardReset _).2.pe.sameContract s.pe
      rw [hpe]
      exact Pe.sameContract_refl _
  · exact contractKept_refl s

theorem phaseRequest_contractKept (s : State) : contractKept s s.phaseRequest.2 := by
  unfold State.phaseRequest
  split
  · split
    · refine ⟨?_, fun _ hc => ReadyStatus.noConfusion hc⟩
      rw [State.psRdyTimeout, defaultPower_pe]
      exact Pe.sameContract_refl _
    · exact contractKept_refl s
  · split
    · unfold State.sendRequest
      dsimp only
      split <;> exact (frTxFrame_step _ _ _).contractKept
    · exact contractKept_refl s

/-! ## The events of a poll -/

/-- A detach drops every wait (R279). -/
theorem onDetached_awaitedIn {pe : Pe} {s : State} (h : pe.awaitedIn s) : pe.awaitedIn s.onDetached :=
  Pe.awaitedIn_of_not_waiting h.1 (fun hc => ReadyStatus.noConfusion hc) rfl

/-- So does an attach, which may stage another target (R277, R278, R302). -/
theorem onAttached_awaitedIn {pe : Pe} {s : State} (h : pe.awaitedIn s) : pe.awaitedIn s.onAttached := by
  obtain ⟨hr, -, -⟩ := h
  unfold State.onAttached
  dsimp only
  split <;> exact Pe.awaitedIn_of_not_waiting (by simpa using hr) (by simp) (by simp)

/-- An event acted on or not. -/
theorem Pe.awaitedIn_ite {pe : Pe} {s t : State} (b : Bool) (ht : pe.awaitedIn t) (hs : pe.awaitedIn s) :
    pe.awaitedIn (if b then t else s) := by
  split
  · exact ht
  · exact hs

/-- ON_PS_RDY (R288) confirms the awaited contract: a live Augmented selection is what makes READY_STATUS PPS. -/
theorem onPsRdy_confirmedIn {pe : Pe} {s : State} (h : pe.awaitedIn s) : pe.confirmedIn s.onPsRdy := by
  obtain ⟨hr, hs, hsame⟩ := h
  unfold State.onPsRdy
  dsimp only
  split
  case isFalse => exact Pe.confirmedIn_of_ne hs
  case isTrue hw =>
    split
    case h_1 => exact Pe.confirmedIn_of_ne (by simp)
    case h_2 i hi =>
      obtain ⟨hlive, hinfo⟩ := Pe.powerInfo_eq_some hi
      split
      case isFalse => exact Pe.confirmedIn_of_ne (by simp)
      case isTrue htyp =>
        refine Pe.confirmedIn_congr (hsame hw) fun _ => ?_
        rw [hinfo, pdoInfo_typ] at htyp
        obtain ⟨hmv, hma⟩ := fromPps_toNat s.pe.ppsV s.pe.ppsI
        rw [State.frSetVbusSense_ready (s := { s with pl := { s.pl with waitPsRdy := false } }) hr]
        simpa using ⟨hlive, pdoType_augmented htyp, hmv, hma⟩

/-- A handler answers PsRdy alone, and then it has left PE as it was (41_codec_rx.md R178, R179). -/
theorem Pe.runHandler_psRdy (pe : Pe) (p : Params) (objs : List Obj) (hd : Option Handler) :
    pe.runHandler p objs hd = ({ PeEvents.empty with psRdy := true }, pe) ∨
      (pe.runHandler p objs hd).1.psRdy = false := by
  match hd with
  | some .psRdy => exact .inl rfl
  | some .reject =>
    show pe.rejectedBy p.rejectPolicy = _ ∨ (pe.rejectedBy p.rejectPolicy).1.psRdy = false
    cases p.rejectPolicy with
    | asPsRdy => exact .inl rfl
    | distinct => exact .inr rfl
  | some .goodCrc | some .accept | some .sourceCap | some .ppsStatus | some .nop | none => exact .inr rfl

/-- Without PsRdy, PE's events do not make READY_STATUS PPS. -/
theorem onPeEvents_readyStatus_ne {s : State} {ev : PeEvents} (h : s.pl.readyStatus ≠ .pps) (hev : ev.psRdy = false) :
    (s.onPeEvents ev).pl.readyStatus ≠ .pps := by
  have h1 : (if ev.sourceCapReceived then s.onSourceCap else s).pl.readyStatus ≠ .pps := by
    split
    · rw [onSourceCap_readyStatus]; exact h
    · exact h
  unfold State.onPeEvents
  rw [hev]
  dsimp only
  split
  · exact onRejected_readyStatus_ne h1
  · exact h1

theorem logReceived_awaitedIn {pe : Pe} {s : State} (h : pe.awaitedIn s) : pe.awaitedIn s.logReceived :=
  Pe.awaitedIn_ite _ h h

/-- ON_RX_FRAME (R282): the frame that confirms a contract is one whose handler answers PsRdy and leaves PE's list and
target. -/
theorem onRxFrame_confirmedIn {pe : Pe} {s : State} (h : pe.awaitedIn s) : pe.confirmedIn s.onRxFrame := by
  obtain ⟨hr, hs, hsame⟩ := logReceived_awaitedIn h
  unfold State.onRxFrame
  dsimp only
  unfold Pe.handleMsg
  dsimp only
  rcases Pe.runHandler_psRdy _ _ _ _ with hev | hev
  · rw [hev]
    exact onPsRdy_confirmedIn ⟨hr, hs, hsame⟩
  · exact Pe.confirmedIn_of_ne (onPeEvents_readyStatus_ne hs hev)

/-- ON_GOOD_CRC_SENT (R283) writes neither the snapshot nor FR. -/
theorem onGoodCrcSent_confirmedIn {pe : Pe} {s : State} (h : pe.confirmedIn s) : pe.confirmedIn s.onGoodCrcSent.2 := by
  unfold State.onGoodCrcSent
  dsimp only
  split
  · exact h
  · have hpl (hd : Half) (os : List Obj) : ((s.delay s.params.tGuardMs).frTxFrame hd os).2.pl = s.pl :=
      (frTxFrame_step _ hd os).pl_eq
    have hfr (hd : Half) (os : List Obj) : ((s.delay s.params.tGuardMs).frTxFrame hd os).2.fr = s.fr :=
      frTxFrame_fr _ hd os
    unfold Pe.confirmedIn at h ⊢
    split <;> simpa [hpl, hfr] using h

/-- A frame that came or none. -/
theorem rxFrame_ite_confirmedIn {pe : Pe} {s : State} (h : pe.awaitedIn s) (b : Bool) :
    pe.confirmedIn (if b then s.onRxFrame else s) := by
  split
  · exact onRxFrame_confirmedIn h
  · obtain ⟨-, hs, -⟩ := h
    exact Pe.confirmedIn_of_ne hs

/-- The events of a poll in their order (R276): a detach or an attach leaves nothing to confirm, a frame may confirm, and
what follows it keeps the confirmation. -/
theorem onFrEvents_confirmedIn {pe : Pe} {s : State} (h : pe.awaitedIn s) (ev : FrEvents) :
    pe.confirmedIn (s.onFrEvents ev).2 := by
  have h1 := Pe.awaitedIn_ite ev.detached (onDetached_awaitedIn h) h
  have h2 := Pe.awaitedIn_ite ev.attached (onAttached_awaitedIn h1) h1
  have h3 := rxFrame_ite_confirmedIn h2 ev.rxFrame
  unfold State.onFrEvents
  dsimp only
  split
  · exact onGoodCrcSent_confirmedIn h3
  · exact h3

/-! ## A TICK, and every instruction -/

/-- Phase B: the poll keeps PE and PL, and answers OK only where the framer is ready. -/
theorem phasePoll_confirmedIn {s : State} (hs : s.pl.readyStatus ≠ .pps) : s.pe.confirmedIn s.phasePoll.2 := by
  cases hdue : s.pollDue with
  | false => rw [State.phasePoll_not hdue]; exact Pe.confirmedIn_of_ne hs
  | true =>
    rw [State.phasePoll_due hdue, State.pollAndDispatch_eq]
    dsimp only
    split
    case isFalse => exact Pe.confirmedIn_of_ne hs
    case isTrue hok =>
      have hr : s.settled.state.fr.ready = true := pollTries_ready (by rw [State.settled] at hok; rw [hok]; decide)
      have hpolled : s.pe.awaitedIn (s.settled.state.withUnits s.pe { s.pl with tPoll := s.env.now } s.port) :=
        ⟨hr, hs, fun _ => Pe.sameContract_refl _⟩
      exact onFrEvents_confirmedIn hpolled _

/-- TICK: phase A keeps the contract, and what phase B makes of it is the contract's confirmation. -/
theorem plTick_confirmedIn {s : State} (hready : s.pl.ready = true) (hs : s.pl.readyStatus ≠ .pps) :
    s.pe.confirmedIn s.plTick.2 := by
  obtain ⟨hsame, hne⟩ := contractKept_trans (phaseSrcCap_contractKept s) (phaseRequest_contractKept _)
  rw [State.plTick_ready hready]
  exact Pe.confirmedIn_congr hsame (phasePoll_confirmedIn (hne hs))

/-- No instruction but TICK makes READY_STATUS PPS: INIT clears it, a reconfiguration keeps it, and the others keep all
of PL (`unitsKeepTheirOwnRegisters`). -/
theorem exec_readyStatus_ne {i : Instr} {s t : State} (hi : i ≠ .tick) (h : exec i s = .next t)
    (hs : s.pl.readyStatus ≠ .pps) : t.pl.readyStatus ≠ .pps := by
  obtain ⟨u, hu, -, -, hkeeps⟩ := unitsKeepTheirOwnRegisters i s
  obtain rfl := Host.Outcome.next.inj (h.symm.trans hu)
  have hpl (he : t.pl = s.pl) : t.pl.readyStatus ≠ .pps := he ▸ hs
  cases i with
  | tick => exact absurd rfl hi
  | init option mv ma =>
    obtain rfl := Host.Outcome.next.inj h
    rw [State.replySt_pl, plInit_readyStatus]
    decide
  | reqPps mv ma =>
    obtain ⟨-, -, -, hst⟩ := reqPps_keeps s mv ma
    obtain rfl := Host.Outcome.next.inj h
    rw [State.reply_pl, hst]
    exact hs
  | reqOpt option =>
    obtain ⟨-, -, -, hst⟩ := reqOpt_keeps s option
    obtain rfl := Host.Outcome.next.inj h
    rw [State.replySt_pl, hst]
    exact hs
  | frInit | frPoll | frTxFrame | frTxHardReset =>
    obtain ⟨-, he⟩ := hkeeps
    exact hpl he
  | frSetVbusSense =>
    obtain ⟨-, he, -⟩ := hkeeps
    exact hpl he
  | isTrans | getMv | getMa | getMw | getReady | frReadCc | frReadVbus | frReadId | frGetRx | peRespond
  | peEvaluate | peCreateGetSrcCap | peCreateGetPpsStatus | peCreateRequest | peGetPowerInfo | peGetSelected
  | peGetPpsStatus | peGetTarget | cmdReserved | txAccept | txReject | txGetSourceCap | txNotSupported
  | txGetPpsStatus | txRequest | txSinkCapabilities | txSinkCapabilitiesExtended =>
    obtain ⟨-, -, he, -⟩ := hkeeps
    exact hpl he
  | _ =>
    obtain ⟨-, he, -⟩ := hkeeps
    exact hpl he

/-- Settles O13: the instruction is TICK (`exec_readyStatus_ne`), a TICK that INIT has not prepared changes nothing, and
one that it has confirms the contract it started from (`plTick_confirmedIn`). -/
theorem ppsOnlyByTickOnAnAugmentedSelection : Obligations.PpsOnlyByTickOnAnAugmentedSelection := by
  intro i s t h hs hpps
  obtain rfl : i = .tick := by_contra fun hi => exec_readyStatus_ne hi h hs hpps
  obtain rfl := Host.Outcome.next.inj h
  cases hready : s.pl.ready with
  | false =>
    rw [State.replySt_pl, State.plTick, hready] at hpps
    exact absurd hpps hs
  | true => exact ⟨rfl, rfl, plTick_confirmedIn hready hs hpps⟩

end Sys2Proof.Machine

/-! PROOFS. The parameters, the trace and the log (20_memory.md R71, R73; 44_policy.md R304): no step writes the first or
takes back any of the others (O12). -/

namespace Sys2Proof.Machine

/-! ## What no step takes back -/

/-- t has s's parameters, and its count of primitives, its trace and its log go on from s's. Unlike in `blockStep` the
command port may differ: a command has been taken and answered. -/
def traceStep (s t : State) : Prop :=
  t.params = s.params ∧ s.env.oracle ≤ t.env.oracle ∧
    (∃ cs, t.env.calls = s.env.calls ++ cs) ∧ ∃ l, t.env.log = s.env.log ++ l

/-- What leaves the parameters and the environment as they are. -/
theorem traceStep_of_env_eq {s t : State} (hparams : t.params = s.params) (henv : t.env = s.env) : traceStep s t :=
  ⟨hparams, by rw [henv], ⟨[], by rw [henv, List.append_nil]⟩, [], by rw [henv, List.append_nil]⟩

/-- An operation of the block, and then its answer. -/
theorem blockStep.traceStep_reply {s t : State} (h : blockStep s t) (bs : List Byte) : traceStep s (t.reply bs) := by
  obtain ⟨hparams, -, horacle, hcalls, hlog⟩ := h
  exact ⟨hparams, horacle, hcalls, hlog⟩

/-- A command taken moves the clock and brings new answers, and neither is part of the trace. -/
theorem traceStep_of_accept {s t : State} {x : Stimulus} {rest : List Stimulus} (h : traceStep (s.accept x rest) t) :
    traceStep s t := by
  simpa only [traceStep, State.accept_params, State.accept_env_oracle, State.accept_env_calls,
    State.accept_env_log] using h

/-! ## Every instruction -/

/-- INIT, TICK and the framer's commands that use the transport run operations of the block; every other instruction
leaves the environment as it is (`unitsKeepTheirOwnRegisters`). -/
theorem exec_traceStep {i : Instr} {s t : State} (h : exec i s = .next t) : traceStep s t := by
  obtain ⟨u, hu, hparams, -, hkeeps⟩ := unitsKeepTheirOwnRegisters i s
  obtain rfl := Host.Outcome.next.inj (hu.symm.trans h)
  cases i with
  | init option mv ma =>
    obtain rfl := Host.Outcome.next.inj h
    exact (plInit_step s option mv ma).traceStep_reply _
  | tick =>
    obtain rfl := Host.Outcome.next.inj h
    exact (plTick_step s).traceStep_reply _
  | frInit =>
    obtain rfl := Host.Outcome.next.inj h
    exact (frInit_step s).blockStep.traceStep_reply _
  | frPoll =>
    obtain rfl := Host.Outcome.next.inj h
    exact (frPoll_step s).blockStep.traceStep_reply _
  | frTxFrame hd objs =>
    obtain rfl := Host.Outcome.next.inj h
    exact (frTxFrame_step s hd objs).blockStep.traceStep_reply _
  | frTxHardReset =>
    obtain rfl := Host.Outcome.next.inj h
    exact (frTxHardReset_step s).blockStep.traceStep_reply _
  | reqPps | reqOpt =>
    obtain ⟨-, henv⟩ := hkeeps
    exact traceStep_of_env_eq hparams henv
  | isTrans | getMv | getMa | getMw | getReady | frReadCc | frReadVbus | frReadId | frGetRx | peRespond
  | peEvaluate | peCreateGetSrcCap | peCreateGetPpsStatus | peCreateRequest | peGetPowerInfo | peGetSelected
  | peGetPpsStatus | peGetTarget | cmdReserved | txAccept | txReject | txGetSourceCap | txNotSupported
  | txGetPpsStatus | txRequest | txSinkCapabilities | txSinkCapabilitiesExtended =>
    obtain ⟨-, -, -, henv⟩ := hkeeps
    exact traceStep_of_env_eq hparams henv
  | _ =>
    obtain ⟨-, -, henv⟩ := hkeeps
    exact traceStep_of_env_eq hparams henv

/-- Settles O12: a step does nothing, or takes a command (`traceStep_of_accept`) and executes it (`exec_traceStep`). -/
theorem everyStepKeepsParametersAndTrace : Obligations.EveryStepKeepsParametersAndTrace := by
  intro s t hstep
  rcases step_next hstep with ⟨-, rfl⟩ | ⟨x, rest, i, -, -, -, hexec⟩
  · exact traceStep_of_env_eq rfl rfl
  · exact traceStep_of_accept (exec_traceStep hexec)

end Sys2Proof.Machine

/-! PROOFS. The headers built and read back, the reserved op codes, the step and the Request object (O4, O8, O6, O38). -/

namespace Sys2Proof

open Sys2Proof.Config

/-! ## Headers read back (30_encoding.md R82 to R86) -/

/-- `parse_header` reads each named field where `rxHeader` puts it. -/
theorem parseHeader_rxHeader (typ : BitVec 5) (f : RxFields) (count : BitVec 3) (ext : BitVec 1) :
    parseHeader (rxHeader typ f count ext) = ⟨typ, f.rev, f.id, count, ext⟩ := by
  have hrev := congrArg RxFields.rev (rxHeader_fields typ f count ext)
  have hid := congrArg RxFields.id (rxHeader_fields typ f count ext)
  have hcount := BitVec.eq_of_toNat_eq (rxHeader_count typ f count ext)
  rw [parseHeader, Header.mk.injEq]
  exact ⟨rxHeader_typ typ f count ext, hrev, hid, hcount, rxHeader_ext typ f count ext⟩

/-- The two unnamed bits of a header are the ones `rxFieldsOf` keeps. -/
theorem getLsbD_unnamed (h : Half) :
    h.getLsbD 5 = (rxFieldsOf h).bit5.getLsbD 0 ∧ h.getLsbD 8 = (rxFieldsOf h).bit8.getLsbD 0 := by
  simp [rxFieldsOf]

/-- A generated header has bits 5 and 8 zero. -/
theorem genHeader_unnamed (typ : BitVec 5) (rev : BitVec 2) (id count : BitVec 3) (ext : BitVec 1) :
    (genHeader typ rev id count ext).getLsbD 5 = false ∧ (genHeader typ rev id count ext).getLsbD 8 = false := by
  obtain ⟨h5, h8⟩ := getLsbD_unnamed (genHeader typ rev id count ext)
  rw [h5, h8, genHeader_eq_rxHeader, rxHeader_fields]
  exact ⟨BitVec.getLsbD_zero, BitVec.getLsbD_zero⟩

theorem parseHeader_genHeader (typ : BitVec 5) (rev : BitVec 2) (id count : BitVec 3) (ext : BitVec 1) :
    parseHeader (genHeader typ rev id count ext) = ⟨typ, rev, id, count, ext⟩ := by
  rw [genHeader_eq_rxHeader, parseHeader_rxHeader]

/-- Masking bits 5 and 8 out of a header leaves its named fields where they are. -/
theorem and_namedMask (h : Half) :
    h &&& 0xFEDF = rxHeader (h.extractLsb' 0 5) ⟨h.extractLsb' 6 2, h.extractLsb' 9 3, 0, 0⟩
      (h.extractLsb' 12 3) (h.extractLsb' 15 1) := by
  apply BitVec.eq_of_getLsbD_eq
  intro i hi
  simp only [rxHeader, BitVec.getLsbD_append, BitVec.getLsbD_extractLsb', BitVec.getLsbD_and]
  interval_cases i <;> simp

theorem genHeader_parseHeader (h : Half) :
    genHeader (parseHeader h).typ (parseHeader h).rev (parseHeader h).id (parseHeader h).count (parseHeader h).ext
      = h &&& 0xFEDF := by
  rw [genHeader_eq_rxHeader, and_namedMask]; rfl

/-- The extended header as a number: the size fits below the chunked bit. -/
theorem genExtHeader_toNat (size : BitVec 9) : (genExtHeader size).toNat = size.toNat + 0x8000 := by
  have hsize := size.isLt
  rw [genExtHeader, BitVec.toNat_add, BitVec.toNat_setWidth, show (0x8000 : Half).toNat = 0x8000 from rfl]
  omega

theorem parseExtHeader_genExtHeader (size : BitVec 9) : parseExtHeader (genExtHeader size) = (size, 1) := by
  have hsize := size.isLt
  have hlow : (genExtHeader size).extractLsb' 0 9 = size := by
    apply BitVec.eq_of_toNat_eq; rw [half_field, genExtHeader_toNat]; omega
  have hchunked : (genExtHeader size).extractLsb' 15 1 = 1 := by
    apply BitVec.eq_of_toNat_eq; rw [half_field, genExtHeader_toNat]; show _ = 1; omega
  rw [parseExtHeader, hlow, hchunked]

/-- Settles O4: a generated header is a received one with bits 5 and 8 zero (`genHeader_eq_rxHeader`), and so reads
back and is rebuilt field by field. -/
theorem headerRoundTrip : Obligations.HeaderRoundTrip := by
  refine ⟨fun typ rev id count ext => ?_, genHeader_parseHeader,
    fun size => ⟨genExtHeader_toNat size, parseExtHeader_genExtHeader size⟩⟩
  obtain ⟨h5, h8⟩ := genHeader_unnamed typ rev id count ext
  exact ⟨genHeader_toNat typ rev id count ext, h5, h8, parseHeader_genHeader typ rev id count ext⟩

/-! ## Reserved op codes (30_encoding.md R98, R111) -/

/-- The op codes that the command table leaves out, range by range. -/
theorem opListed_eq_false_iff {op : Byte} :
    opListed op = false ↔
      op = 0 ∨ 0x0A ≤ op.toNat ∧ op.toNat ≤ 0x0F ∨ 0x19 ≤ op.toNat ∧ op.toNat ≤ 0x1F ∨ 0x2F ≤ op.toNat := by
  have hzero : op = 0 ↔ op.toNat = 0 := ⟨fun h => congrArg BitVec.toNat h, fun h => BitVec.eq_of_toNat_eq h⟩
  simp only [opListed, Bool.or_eq_false_iff, Bool.and_eq_false_iff, decide_eq_false_iff_not, hzero]
  omega

/-- An op code outside the table is the reserved command, whatever follows it. -/
theorem decodeCmd_reserved {op : Byte} (h : opListed op = false) (bs : List Byte) :
    decodeCmd op bs = .instr (.cmdReserved op) := by
  unfold decodeCmd
  split
  case h_34 => rfl
  all_goals
    rename_i hop
    simp [opListed, hop] at h

/-- Settles O8: the four ranges are the op codes that the table does not list, and the reserved command answers
BadCommand, status 6. -/
theorem reservedOpCodesAreBadCommands : Obligations.ReservedOpCodesAreBadCommands :=
  fun _op rest _s hop => ⟨decodeCmd_reserved (opListed_eq_false_iff.2 hop) rest, rfl⟩

end Sys2Proof

namespace Sys2Proof.Machine

open Sys2Proof.Config

/-! ## The step (30_encoding.md R110; 70_reset_and_hazards.md R352) -/

theorem step_of_decoded {s : State} {x : Stimulus} {rest : List Stimulus} {i : Instr} (hx : s.port.inbox = x :: rest)
    (hfree : x.overlaps = false) (hdec : decodeAt s.params.codes x.fmt x.bytes = .instr i) :
    step s = exec i (s.accept x rest) := by
  simp only [step, hx, hfree, hdec, Bool.false_eq_true, if_false]

theorem step_of_idle {s : State} (h : s.port.inbox = []) : step s = .next s := by
  simp only [step, h]

theorem decode_of_decodeTableWord {nbits w : Nat} {i : Instr} (h : decodeTableWord nbits w = some i) :
    decode (tableFormat nbits w) (tableBytes nbits w) = .instr i := by
  unfold decodeTableWord at h
  split at h
  · rename_i j hj
    rw [hj, Option.some.inj h]
  · cases h

/-- Taking a table word off the port gives back the state it was placed in: it brings no time and no new answers. -/
theorem State.withFetchWord_accept (s : State) (nbits w : Nat) :
    (s.withFetchWord nbits w).accept (s.tableStimulus nbits w) s.port.inbox = s := by
  have hnow : s.env.now + 0 = s.env.now := BitVec.add_zero s.env.now
  simp only [State.accept, State.withFetchWord, State.tableStimulus, hnow]

/-- Settles O6: a table word is written with the machine's codes, so that it reads back as the table's
(`decodeAt_wireBytes`). -/
theorem stepRunsTheDecodedInstruction : Obligations.StepRunsTheDecodedInstruction := by
  refine ⟨fun s x rest i => step_of_decoded, fun s => step_of_idle, fun s nbits w i hcodes hw => ?_⟩
  have hdec := (decodeAt_wireBytes hcodes _ _).trans (decode_of_decodeTableWord hw)
  calc step (s.withFetchWord nbits w)
      = exec i ((s.withFetchWord nbits w).accept (s.tableStimulus nbits w) s.port.inbox) := step_of_decoded rfl rfl hdec
    _ = exec i s := by rw [s.withFetchWord_accept]

/-! ## The Request object (30_encoding.md R105, R106; 42_codec_tx.md R211, R217) -/

/-- The header of a built message, in numbers: SPEC_REV stands at 0x0080. -/
theorem Pe.header_eq (pe : Pe) (p : Params) (t : Table) (row : BitVec 5) (count : BitVec 3) (ext : BitVec 1) :
    pe.header p t row count ext = BitVec.ofNat 16
      (ext.toNat * 2 ^ 15 + count.toNat * 2 ^ 12 + 0x0080 + (typeCode p t row).toNat + pe.msgId.toNat * 2 ^ 9) := by
  apply BitVec.eq_of_toNat_eq
  have hlt := (pe.header p t row count ext).isLt
  have hnum : (pe.header p t row count ext).toNat
      = ext.toNat * 2 ^ 15 + count.toNat * 2 ^ 12 + 0x0080 + (typeCode p t row).toNat + pe.msgId.toNat * 2 ^ 9 := by
    rw [Pe.header, genHeader_toNat, show specRev.toNat = 2 from rfl]; omega
  rw [BitVec.toNat_ofNat, ← hnum, Nat.mod_eq_of_lt hlt]

/-- A capability is Augmented where its top two bits, as a number, are 3. -/
theorem augmented_iff (w : Obj) : w.extractLsb' 30 2 = 3 ↔ w.toNat / 2 ^ 30 = 3 := by
  have hlt := w.isLt
  rw [← BitVec.toNat_inj, BitVec.extractLsb'_toNat, Nat.shiftRight_eq_div_pow, show (3 : BitVec 2).toNat = 3 from rfl]
  omega

/-- The object position: the selection counted from 1, in the top four bits (R105). -/
theorem objectPosition_toNat {k : BitVec 3} (h : k.toNat ≤ 6) :
    ((k.setWidth 32 + 1 : Obj) <<< 28).toNat = (k.toNat + 1) * 2 ^ 28 := by
  rw [BitVec.toNat_shiftLeft, BitVec.toNat_add, BitVec.toNat_setWidth, Nat.shiftLeft_eq,
    show (1 : Obj).toNat = 1 from rfl]
  omega

/-- The Request object in numbers: no field reaches into the next. An Augmented capability is asked for with the
target's voltage and current (R106), any other one with its low ten bits as operating and as maximum value (R105). -/
theorem Pe.requestObject_toNat {pe : Pe} (hsel : pe.selected.toNat ≤ 6) :
    pe.requestObject.toNat = if (pe.srcPdo.get pe.selected.toNat).toNat / 2 ^ 30 = 3 then
        (pe.selected.toNat + 1) * 2 ^ 28 + pe.ppsV.toNat % 2 ^ 11 * 2 ^ 9 + pe.ppsI.toNat % 2 ^ 7
      else (pe.selected.toNat + 1) * 2 ^ 28 + (pe.srcPdo.get pe.selected.toNat).toNat % 2 ^ 10 * 2 ^ 10
        + (pe.srcPdo.get pe.selected.toNat).toNat % 2 ^ 10 := by
  have hpos := objectPosition_toNat hsel
  simp only [Pe.requestObject, augmented_iff]
  split
  all_goals
    simp only [BitVec.toNat_add, hpos, BitVec.toNat_shiftLeft, BitVec.toNat_setWidth, BitVec.extractLsb'_toNat,
      Nat.shiftRight_zero, Nat.shiftLeft_eq]
    omega

/-- Settles O38: the command answers BUILD_REQUEST's header and object (`State.peCreateRequest_iff`), the object in the
form that the capability's top two bits choose. -/
theorem requestObjectRule : Obligations.RequestObjectRule := by
  intro s hsel
  have hheader := s.pe.header_eq s.params .data 2 1 0
  have hobject := Pe.requestObject_toNat hsel
  exact ⟨s.pe.requestObject, State.peCreateRequest_iff.2 ⟨hheader.symm, rfl⟩, fun h => by rw [hobject, if_neg h],
    fun h => by rw [hobject, if_pos h]⟩

end Sys2Proof.Machine

/-! PROOFS. The framer's small operations, its gate and its transmissions (O16, O25, O26, O27). -/

namespace Sys2Proof.Machine

open Sys2Proof.Config

/-! ## Statuses answered -/

/-- A failed primitive is answered with its direction's byte. -/
theorem State.replySt_errorStatus (s : State) (e : TransportError) :
    s.replySt (errorStatus e) = s.reply [errorByte e] := by
  rw [State.replySt, Status.code_errorStatus]

/-! ## The gate and the accessors (40_framer.md R130, R141 to R147) -/

theorem FrEvents.byte_empty : FrEvents.empty.byte = 0 := by decide

/-- A poll that stops answers its status and no event. -/
theorem exec_frPoll_failPoll {s t : State} {st : Status} (h : s.frPoll = failPoll st t) :
    exec .frPoll s = .next (t.reply [st.code, 0]) := by
  show execFrPoll s = _
  rw [execFrPoll, h, failPoll, FrEvents.byte_empty]

theorem exec_frPoll_notReady {s : State} (h : s.fr.ready = false) : exec .frPoll s = .next (s.reply [5, 0]) :=
  exec_frPoll_failPoll (State.frPoll_notReady h)

theorem exec_frSetVbusSense_notReady {s : State} (h : s.fr.ready = false) (en : Byte) :
    exec (.frSetVbusSense en) s = .next (s.reply [5]) := by
  show execFrSetVbusSense en s = _
  rw [execFrSetVbusSense, State.frSetVbusSense_notReady h]; rfl

theorem exec_frSetVbusSense_ready {s : State} (h : s.fr.ready = true) (en : Byte) :
    exec (.frSetVbusSense en) s
      = .next (State.reply { s with fr := { s.fr with vbusSenseEn := en != 0 } } [0]) := by
  show execFrSetVbusSense en s = _
  rw [execFrSetVbusSense, State.frSetVbusSense_ready h]; rfl

theorem exec_frTxFrame_notReady {s : State} (h : s.fr.ready = false) (hd : Half) (objs : List Obj) :
    exec (.frTxFrame hd objs) s = .next (s.reply [5]) := by
  show execFrTxFrame hd objs s = _
  rw [execFrTxFrame, State.frTxFrame_notReady h]; rfl

theorem exec_frTxHardReset_notReady {s : State} (h : s.fr.ready = false) :
    exec .frTxHardReset s = .next (s.reply [5]) := by
  show execFrTxHardReset s = _
  rw [execFrTxHardReset, State.frTxHardReset_notReady h]; rfl

/-- Settles O16: each gated command takes the branch of FR_READY = 0; an accessor has no such branch. -/
theorem frGate : Obligations.FrGate :=
  ⟨fun _ h => ⟨exec_frPoll_notReady h, exec_frSetVbusSense_notReady h, exec_frTxFrame_notReady h,
      exec_frTxHardReset_notReady h, ⟨_, rfl⟩, ⟨_, rfl⟩, ⟨_, rfl⟩, _, rfl⟩,
    rfl, rfl, rfl, rfl⟩

theorem boolByte_eq (b : Bool) : boolByte b = if b then 1 else 0 := by
  cases b <;> rfl

/-- Settles O25: the operand of FR_SET_VBUS_SENSE is compared with 0, and an accessor answers its registers' codes. -/
theorem smallFramerOperations : Obligations.SmallFramerOperations := by
  refine fun s => ⟨fun en hr h0 => ?_, fun en hr h0 => ?_, fun en hr => exec_frSetVbusSense_notReady hr en,
    rfl, ?_, rfl, ?_⟩
  · rw [exec_frSetVbusSense_ready hr, h0]; rfl
  · rw [exec_frSetVbusSense_ready hr, bne_iff_ne.2 h0]
  · show execFrReadVbus s = _
    rw [execFrReadVbus, boolByte_eq]
  · show execFrGetRx s = _
    simp only [execFrGetRx, Objs7.toList, objsBytes, List.append_nil, List.append_assoc]

/-! ## Transmissions (40_framer.md R145, R146) -/

/-- The transmit layout in numbers (30_encoding.md R89), for a list that holds the header's count of objects. -/
theorem txBytes_eq (p : Params) {h : Half} {objs : List Obj} (hn : h.toNat / 2 ^ 12 % 8 ≤ objs.length) :
    txBytes p h objs
      = [p.tokSop1, p.tokSop1, p.tokSop1, p.tokSop2, p.tokPackSym + BitVec.ofNat 8 (2 + 4 * (h.toNat / 2 ^ 12 % 8)),
          BitVec.ofNat 8 h.toNat, BitVec.ofNat 8 (h.toNat / 2 ^ 8)]
        ++ (objs.take (h.toNat / 2 ^ 12 % 8)).flatMap (fun o => [BitVec.ofNat 8 o.toNat,
            BitVec.ofNat 8 (o.toNat / 2 ^ 8), BitVec.ofNat 8 (o.toNat / 2 ^ 16), BitVec.ofNat 8 (o.toNat / 2 ^ 24)])
        ++ [p.tokJamCrc, p.tokEop, p.tokTxOff, p.tokTxOn] := by
  rw [txBytes, objectCount_eq, present_eq_take hn, objsBytes_eq_flatMap, le16_eq, funext le32_eq]; rfl

/-- Tokens, header and as many objects as the header announces. -/
theorem txBytes_length (p : Params) (h : Half) (objs : List Obj) :
    (txBytes p h objs).length = 11 + 4 * objectCount h := by
  simp only [txBytes, le16, List.length_append, List.length_cons, List.length_nil, objsBytes_length, present_length]
  omega

/-- Settles O26: one write, of the bytes that `txBytes_eq` gives, and its own status. -/
theorem txFrameRule : Obligations.TxFrameRule := by
  refine fun s h objs => ⟨fun hr => exec_frTxFrame_notReady hr h objs, fun hr => ?_⟩
  dsimp only
  intro hn
  rw [← txBytes_eq s.params hn, txBytes_length, objectCount_eq]
  refine ⟨rfl, fun h0 => ?_, fun h0 => ?_⟩
  all_goals
    show execFrTxFrame h objs s = _
    rw [execFrTxFrame, State.frTxFrame_ready hr]
  · rw [State.attempt_ok h0]; rfl
  · obtain ⟨e, he⟩ := State.not_succeeds h0
    rw [State.attempt_fail he]; rfl

/-- Settles O27: the two primitives in order, each of which can stop the command. -/
theorem txHardResetRule : Obligations.TxHardResetRule := by
  refine fun s => ⟨exec_frTxHardReset_notReady, fun hr => ?_⟩
  refine ⟨fun e h0 => ?_, fun e h0 h1 => ?_, fun h0 h1 => ?_⟩
  all_goals
    show execFrTxHardReset s = _
    rw [execFrTxHardReset, State.frTxHardReset_ready hr]
  · rw [State.attempt_fail h0]
    exact congrArg _ (State.replySt_errorStatus _ e)
  · rw [State.attempt_ok h0, State.attempt_fail (by rwa [Env.answerAt_delay, Env.answerAt_issue])]
    exact congrArg _ (State.replySt_errorStatus _ e)
  · rw [State.attempt_ok h0, State.attempt_ok (by rwa [State.succeeds_delay, State.succeeds_issue])]
    rfl

end Sys2Proof.Machine

/-! PROOFS. A sequence of primitives run symbolically, and FR_INIT (O15). -/

namespace Sys2Proof.Machine

open Sys2Proof.Config

/-! ## Which answer a primitive gets after a sequence of them -/

/-- How many of the calls ask the environment: all but the delays. -/
def askCount : List XCall → Nat
  | [] => 0
  | .delayMs _ :: cs => askCount cs
  | _ :: cs => askCount cs + 1

theorem askCount_append (cs ds : List XCall) : askCount (cs ++ ds) = askCount cs + askCount ds := by
  induction cs with
  | nil => rw [List.nil_append, askCount, Nat.zero_add]
  | cons c cs ih =>
    cases c with
    | delayMs => exact ih
    | _ => exact (congrArg (· + 1) ih).trans (Nat.add_right_comm (askCount cs) (askCount ds) 1)

/-- A sequence uses up one answer per call that asks, and they are counted. -/
theorem State.after_asks (s : State) (cs : List XCall) (k : Nat) :
    (s.after cs).env.answerAt k = s.env.answerAt (askCount cs + k) ∧
      (s.after cs).env.oracle = s.env.oracle + askCount cs := by
  induction cs generalizing s with
  | nil => exact ⟨by rw [askCount, Nat.zero_add, State.after_nil], rfl⟩
  | cons c cs ih =>
    cases c with
    | delayMs n => exact ih (s.delay n)
    | _ =>
      obtain ⟨hanswer, horacle⟩ := ih (s.issue _).2
      exact ⟨hanswer.trans ((Env.answerAt_issue ..).trans (congrArg s.env.answerAt (Nat.add_right_comm _ k 1))),
        horacle.trans (Nat.add_right_comm _ 1 _)⟩

/-- s after the primitives cs, with f in FR's registers: what the framer's operations go through. -/
def State.afterFr (s : State) (f : Fr) (cs : List XCall) : State := { s.after cs with fr := f }

@[simp] theorem State.afterFr_params (s : State) (f : Fr) (cs : List XCall) : (s.afterFr f cs).params = s.params :=
  s.after_params cs

/-- Registers written before a sequence are there after it. -/
theorem State.after_afterFr (s : State) (f : Fr) (cs ds : List XCall) :
    (s.afterFr f cs).after ds = s.afterFr f (cs ++ ds) := by
  rw [State.afterFr, State.after_with_fr, ← State.after_append]; rfl

theorem State.issue_afterFr (s : State) (f : Fr) (cs : List XCall) {c : XCall} (hc : ∀ n, c ≠ .delayMs n) :
    ((s.afterFr f cs).issue c).2 = s.afterFr f (cs ++ [c]) := by
  rw [← State.after_afterFr, State.after_issue _ _ hc, State.after_nil]

theorem State.answerAt_afterFr (s : State) (f : Fr) (cs : List XCall) (k : Nat) :
    (s.afterFr f cs).env.answerAt k = s.env.answerAt (askCount cs + k) := (s.after_asks cs k).1

theorem State.succeeds_afterFr (s : State) (f : Fr) (cs : List XCall) (k : Nat) :
    (s.afterFr f cs).succeeds k = s.succeeds (askCount cs + k) := by
  rw [State.succeeds, State.answerAt_afterFr, ← State.succeeds]

/-- The answer to the primitive c that follows the primitives cs. -/
theorem State.issue_fst_afterFr (s : State) (f : Fr) (cs : List XCall) (c : XCall) :
    ((s.afterFr f cs).issue c).1 = c.receive (s.env.oracle + askCount cs) (s.env.answerAt (askCount cs)) := by
  obtain ⟨hanswer, horacle⟩ := s.after_asks cs 0
  rw [State.issue_fst, State.answerAt_afterFr]
  exact congrArg (c.receive · _) horacle

/-- "else return E" after the primitives cs: c succeeds, and the operation goes on with its answer. -/
theorem State.attempt_afterFr_ok {α : Type} {s : State} {f : Fr} (cs : List XCall) (c : XCall)
    {g : Status → State → α} {k : XAnswer → State → α} (h : s.succeeds (askCount cs) = true)
    (hc : ∀ n, c ≠ .delayMs n := by nofun) :
    (s.afterFr f cs).attempt c g k
      = k (c.receive (s.env.oracle + askCount cs) (s.env.answerAt (askCount cs))) (s.afterFr f (cs ++ [c])) := by
  rw [State.attempt_ok (by rwa [State.succeeds_afterFr]), State.issue_fst_afterFr, State.issue_afterFr s f cs hc]

/-- The same where c fails: the operation stops. -/
theorem State.attempt_afterFr_fail {α : Type} {s : State} {f : Fr} (cs : List XCall) (c : XCall)
    {g : Status → State → α} {k : XAnswer → State → α} {e : TransportError}
    (h : (s.env.answerAt (askCount cs)).fail = some e) (hc : ∀ n, c ≠ .delayMs n := by nofun) :
    (s.afterFr f cs).attempt c g k = g (errorStatus (c.errorOf e)) (s.afterFr f (cs ++ [c])) := by
  rw [State.attempt_fail (by rwa [State.answerAt_afterFr]), State.issue_afterFr s f cs hc]

/-! ## FR_INIT (40_framer.md R131) -/

/-- FR_INIT starts by clearing FR_READY. -/
theorem State.frInit_eq (s : State) :
    s.frInit = (s.afterFr { s.fr with ready := false } []).attempt .swReset failSt fun _ t =>
      t.attempt .readId failSt fun a u =>
        if idRecognised u.params a.byte then State.frConfigure { u with fr := { u.fr with devId := a.byte } }
        else (.deviceNotFound, { u with fr := { u.fr with devId := a.byte } }) := rfl

/-- What FR holds once the identification byte has been read. -/
def Fr.identified (f : Fr) (id : Byte) : Fr := { f with ready := false, devId := id }

theorem State.frInit_resetFails {s : State} {e : TransportError} (h : (s.env.answerAt 0).fail = some e) :
    s.frInit = (errorStatus e, s.afterFr { s.fr with ready := false } [.swReset]) := by
  rw [State.frInit_eq, State.attempt_afterFr_fail [] .swReset h]; rfl

theorem State.frInit_readIdFails {s : State} (h0 : s.succeeds 0 = true) (h1 : s.succeeds 1 = false) :
    s.frInit = (.readError, s.afterFr { s.fr with ready := false } [.swReset, .readId]) := by
  obtain ⟨e, he⟩ := State.not_succeeds h1
  rw [State.frInit_eq, State.attempt_afterFr_ok [] .swReset h0]
  exact State.attempt_afterFr_fail [.swReset] .readId he

/-- Both of the first two primitives succeed: the identification byte is stored, and decides. -/
theorem State.frInit_identified {s : State} (h0 : s.succeeds 0 = true) (h1 : s.succeeds 1 = true) :
    s.frInit = if idRecognised s.params (s.env.answerAt 1).byte
      then (s.afterFr (s.fr.identified (s.env.answerAt 1).byte) [.swReset, .readId]).frConfigure
      else (.deviceNotFound, s.afterFr (s.fr.identified (s.env.answerAt 1).byte) [.swReset, .readId]) := by
  rw [State.frInit_eq, State.attempt_afterFr_ok [] .swReset h0]
  refine (State.attempt_afterFr_ok [.swReset] .readId h1).trans ?_
  rw [State.afterFr_params]; rfl

theorem exec_frInit_of {s t : State} {st : Status} (h : s.frInit = (st, t)) :
    exec .frInit s = .next (t.reply [st.code]) := by
  show execFrInit s = _
  rw [execFrInit, h, State.replySt]

theorem exec_frInit_failed {s t : State} {e : TransportError} (h : s.frInit = (errorStatus e, t)) :
    exec .frInit s = .next (t.reply [errorByte e]) := by
  rw [exec_frInit_of h, Status.code_errorStatus]

/-- Settles O15: up to the identification by `State.frInit_identified`, and from there the last three primitives in
order. -/
theorem frInitRule : Obligations.FrInitRule := by
  intro s
  refine ⟨fun e h0 => exec_frInit_failed (State.frInit_resetFails h0),
    fun h0 h1 => exec_frInit_of (State.frInit_readIdFails h0 h1), fun h0 h1 hid => ?_, fun h0 h1 hid => ?_⟩
  · exact exec_frInit_of ((State.frInit_identified h0 h1).trans (if_neg (by rw [hid]; exact Bool.false_ne_true)))
  have hinit := (State.frInit_identified h0 h1).trans (if_pos hid)
  refine ⟨fun e h2 => ?_, fun e h2 h3 => ?_, fun e h2 h3 h4 => ?_, fun h2 h3 h4 => ?_⟩
  · exact exec_frInit_failed (hinit.trans
      (State.attempt_afterFr_fail [.swReset, .readId] (.configure nAutoRetry enabledInterrupts) h2))
  all_goals
    have hconfigure := hinit.trans
      (State.attempt_afterFr_ok [.swReset, .readId] (.configure nAutoRetry enabledInterrupts) h2)
  · exact exec_frInit_failed (hconfigure.trans (State.attempt_afterFr_fail _ (.power .oscillator) h3))
  all_goals
    have hpower := hconfigure.trans (State.attempt_afterFr_ok _ (.power .oscillator) h3)
  · exact exec_frInit_failed (hpower.trans (State.attempt_afterFr_fail _ (.setVbusMask true) h4))
  · exact exec_frInit_of (hpower.trans (State.attempt_afterFr_ok _ (.setVbusMask true) h4))

end Sys2Proof.Machine

/-! PROOFS. FR_POLL while Unattached: without VBUS, Busy, and the attach (O18, O20, O19). -/

namespace Sys2Proof.Machine

open Sys2Proof.Config

/-! ## What a poll answers -/

theorem exec_frPoll_ok {s t : State} {ev : FrEvents} (h : s.frPoll = ⟨.ok, ev, t⟩) :
    exec .frPoll s = .next (t.reply [0, ev.byte]) := by
  show execFrPoll s = _
  rw [execFrPoll, h]; rfl

/-- A poll stopped by a failed primitive. -/
theorem exec_frPoll_failed {s t : State} {e : TransportError} (h : s.frPoll = failPoll (errorStatus e) t) :
    exec .frPoll s = .next (t.reply [errorByte e, 0]) := by
  rw [exec_frPoll_failPoll h, Status.code_errorStatus]

/-- FR with VBUS_LAST as the status read found it: all that a poll writes before its last step. -/
def Fr.sawVbus (f : Fr) (v : Bool) : Fr := { f with vbusLast := v }

/-! ## The status read (40_framer.md R133, R136) -/

/-- Either arm begins with the status read, and stops where it fails. -/
theorem frPoll_statusFails {s : State} (hr : s.fr.ready = true) (h0 : s.succeeds 0 = false) :
    s.frPoll = failPoll .readError (s.after [.readStatus]) := by
  obtain ⟨e, he⟩ := State.not_succeeds h0
  cases ha : s.fr.attach with
  | unattached => rw [State.frPoll_unattached hr ha, State.pollUnattached, State.attempt_fail he]; rfl
  | attached => rw [State.frPoll_attached hr ha, State.pollAttached, State.attempt_fail he]; rfl

theorem frPoll_noVbus {s : State} (hr : s.fr.ready = true) (ha : s.fr.attach = .unattached)
    (h0 : s.succeeds 0 = true) (hv : (s.env.answerAt 0).status.vbusOk = false) :
    s.frPoll = ⟨.ok, FrEvents.empty, s.afterFr (s.fr.sawVbus false) [.readStatus]⟩ := by
  rw [State.frPoll_unattached hr ha, State.pollUnattached, State.attempt_ok h0, State.issue_fst_status, hv]; rfl

/-- Settles O18: the two ends of a poll that has no VBUS to go on with. -/
theorem pollWithoutVbus : Obligations.PollWithoutVbus := fun _ hr =>
  ⟨fun h0 => exec_frPoll_failPoll (frPoll_statusFails hr h0),
    fun h0 ha hv => exec_frPoll_ok (frPoll_noVbus hr ha h0 hv)⟩

/-! ## The measurement (R133, R135) -/

/-- With VBUS present the Unattached arm powers the measurement block and samples the pins. -/
theorem frPoll_vbus {s : State} (hr : s.fr.ready = true) (ha : s.fr.attach = .unattached)
    (h0 : s.succeeds 0 = true) (hv : (s.env.answerAt 0).status.vbusOk = true) :
    s.frPoll = (s.afterFr (s.fr.sawVbus true) [.readStatus]).attempt (.power .measure) failPoll
      fun _ t => t.pollSample := by
  rw [State.frPoll_unattached hr ha, State.pollUnattached, State.attempt_ok h0, State.issue_fst_status, hv]; rfl

/-- The calls before the first sample. -/
def measureCalls : List XCall := [.readStatus, .power .measure]

theorem frPoll_measures {s : State} (hr : s.fr.ready = true) (ha : s.fr.attach = .unattached)
    (h0 : s.succeeds 0 = true) (hv : (s.env.answerAt 0).status.vbusOk = true) (h1 : s.succeeds 1 = true) :
    s.frPoll = (s.afterFr (s.fr.sawVbus true) measureCalls).pollSample :=
  (frPoll_vbus hr ha h0 hv).trans (State.attempt_afterFr_ok [.readStatus] (.power .measure) h1)

/-! ## One pin, sampled after other primitives (R135) -/

theorem stableSample_afterFr_ok {s : State} {f : Fr} {cs : List XCall} {pin : Pin} {l : LineLevel}
    (hs : ∀ k < 6, s.succeeds (askCount cs + k) = true)
    (hl : ∀ k < 6, (s.env.answerAt (askCount cs + k)).level = l) :
    (s.afterFr f cs).stableSample pin = ⟨.ok, l, s.afterFr f (cs ++ sampleCalls s.params pin 5)⟩ := by
  rw [State.stableSample_ok (l := l) (fun k hk => by rw [State.succeeds_afterFr]; exact hs k hk)
    (fun k hk => by rw [State.answerAt_afterFr]; exact hl k hk), State.after_afterFr, State.afterFr_params]

theorem stableSample_afterFr_busy {s : State} {f : Fr} {cs : List XCall} {pin : Pin} {j : Nat} (hj : j < 5)
    (hs : ∀ k ≤ j + 1, s.succeeds (askCount cs + k) = true)
    (hl : ∀ k < j, (s.env.answerAt (askCount cs + 1 + k)).level = (s.env.answerAt (askCount cs)).level)
    (hb : (s.env.answerAt (askCount cs + 1 + j)).level ≠ (s.env.answerAt (askCount cs)).level) :
    (s.afterFr f cs).stableSample pin
      = ⟨.busy, (s.env.answerAt (askCount cs)).level, s.afterFr f (cs ++ sampleCalls s.params pin (j + 1))⟩ := by
  have hnext (k : Nat) : (s.afterFr f cs).env.answerAt (k + 1) = s.env.answerAt (askCount cs + 1 + k) := by
    rw [State.answerAt_afterFr, Nat.add_comm k 1, ← Nat.add_assoc]
  have hzero : (s.afterFr f cs).env.answerAt 0 = s.env.answerAt (askCount cs) := State.answerAt_afterFr s f cs 0
  rw [State.stableSample_busy hj (fun k hk => by rw [State.succeeds_afterFr]; exact hs k hk)
    (fun k hk => by rw [hnext, hzero]; exact hl k hk) (by rw [hnext, hzero]; exact hb),
    State.after_afterFr, State.afterFr_params, hzero]

theorem stableSample_afterFr_fail {s : State} {f : Fr} {cs : List XCall} {pin : Pin} {n : Nat} {e : TransportError}
    (hn : n ≤ 5) (hs : ∀ k < n, s.succeeds (askCount cs + k) = true)
    (hl : ∀ k < n, (s.env.answerAt (askCount cs + k)).level = (s.env.answerAt (askCount cs)).level)
    (hb : (s.env.answerAt (askCount cs + n)).fail = some e) :
    ((s.afterFr f cs).stableSample pin).status = errorStatus e ∧
      ((s.afterFr f cs).stableSample pin).state = s.afterFr f (cs ++ sampleCalls s.params pin n) := by
  have h := State.stableSample_fail (s := s.afterFr f cs) (pin := pin) hn
    (fun k hk => by rw [State.succeeds_afterFr]; exact hs k hk)
    (fun k hk => by rw [State.answerAt_afterFr, State.answerAt_afterFr]; exact hl k hk)
    (by rw [State.answerAt_afterFr]; exact hb)
  rwa [State.after_afterFr, State.afterFr_params] at h

/-! ## Both pins (R133, R135) -/

/-- A first pin that is not stable ends the poll. -/
theorem pollSample_firstStops {s t : State} {st : Status} (hst : (s.stableSample .cc1).status = st) (hne : st ≠ .ok)
    (ht : (s.stableSample .cc1).state = t) : s.pollSample = failPoll st t := by
  subst hst ht
  rw [State.pollSample]
  exact if_pos hne

/-- The first pin stable, the second is sampled. -/
theorem pollSample_firstStable {s t : State} {l : LineLevel} (h1 : s.stableSample .cc1 = ⟨.ok, l, t⟩) :
    s.pollSample = if (t.stableSample .cc2).status ≠ .ok
      then failPoll (t.stableSample .cc2).status (t.stableSample .cc2).state
      else (t.stableSample .cc2).state.pollAttach l (t.stableSample .cc2).level := by
  rw [State.pollSample, h1]; rfl

theorem pollSample_secondStops {s t u : State} {l : LineLevel} {st : Status}
    (h1 : s.stableSample .cc1 = ⟨.ok, l, t⟩) (hst : (t.stableSample .cc2).status = st) (hne : st ≠ .ok)
    (hu : (t.stableSample .cc2).state = u) : s.pollSample = failPoll st u := by
  subst hst hu
  rw [pollSample_firstStable h1, if_pos hne]

theorem pollSample_bothStable {s t u : State} {l1 l2 : LineLevel} (h1 : s.stableSample .cc1 = ⟨.ok, l1, t⟩)
    (h2 : t.stableSample .cc2 = ⟨.ok, l2, u⟩) : s.pollSample = u.pollAttach l1 l2 := by
  rw [pollSample_firstStable h1, h2]; rfl

/-! ## Busy, and a sample that fails (R135) -/

/-- Resamples that equal the first sample, as samples that all equal it. -/
theorem levels_from_first {e : Env} {i n : Nat}
    (h : ∀ k < n, (e.answerAt (i + 1 + k)).level = (e.answerAt i).level) :
    ∀ k < n + 1, (e.answerAt (i + k)).level = (e.answerAt i).level
  | 0, _ => rfl
  | k + 1, hk => by
    rw [Nat.add_comm k 1, ← Nat.add_assoc]
    exact h k (Nat.lt_of_succ_lt_succ hk)

/-- Settles O20: the first pin stops the poll, or is stable (`hfirst`) and the second one stops it. -/
theorem pollBusy : Obligations.PollBusy := by
  intro s j hr ha hv hj
  have hpoll {m : Nat} (hm : 2 ≤ m) (hs : ∀ k < m, s.succeeds k = true) :=
    frPoll_measures hr ha (hs 0 (by omega)) hv (hs 1 (by omega))
  have hfirst (hs : ∀ k < 8, s.succeeds k = true)
      (hl : ∀ k < 6, (s.env.answerAt (2 + k)).level = (s.env.answerAt 2).level) :=
    stableSample_afterFr_ok (s := s) (f := s.fr.sawVbus true) (cs := measureCalls) (pin := .cc1)
      (fun k hk => hs (2 + k) (by omega)) hl
  refine ⟨fun n e hn hs hl he => ?_, fun n e hn hs hl1 hl2 he => ?_, fun hs hl hb => ?_, fun hs hl1 hl2 hb => ?_⟩
  · obtain ⟨hst, hstate⟩ := stableSample_afterFr_fail (f := s.fr.sawVbus true) (cs := measureCalls) (pin := .cc1) hn
      (fun k hk => hs (2 + k) (by omega)) hl he
    exact exec_frPoll_failed ((hpoll (by omega) hs).trans (pollSample_firstStops hst (errorStatus_ne e).1 hstate))
  · obtain ⟨hst, hstate⟩ := stableSample_afterFr_fail (f := s.fr.sawVbus true)
      (cs := measureCalls ++ sampleCalls s.params .cc1 5) (pin := .cc2) hn (fun k hk => hs (8 + k) (by omega)) hl2 he
    exact exec_frPoll_failed ((hpoll (by omega) hs).trans
      (pollSample_secondStops (hfirst (fun k hk => hs k (by omega)) hl1) hst (errorStatus_ne e).1 hstate))
  · have hbusy := stableSample_afterFr_busy (f := s.fr.sawVbus true) (cs := measureCalls) (pin := .cc1) hj
      (fun k hk => hs (2 + k) (by omega)) hl hb
    exact exec_frPoll_failPoll ((hpoll (m := 4 + j) (by omega) fun k hk => hs k (by omega)).trans
      (pollSample_firstStops (congrArg Sampled.status hbusy) nofun (congrArg Sampled.state hbusy)))
  · have hbusy := stableSample_afterFr_busy (f := s.fr.sawVbus true)
      (cs := measureCalls ++ sampleCalls s.params .cc1 5) (pin := .cc2) hj (fun k hk => hs (8 + k) (by omega)) hl2 hb
    exact exec_frPoll_failPoll ((hpoll (m := 10 + j) (by omega) fun k hk => hs k (by omega)).trans
      (pollSample_secondStops (hfirst (fun k hk => hs k (by omega)) (levels_from_first hl1))
        (congrArg Sampled.status hbusy) nofun (congrArg Sampled.state hbusy)))

/-! ## The attach (R134) -/

/-- The poll once both pins have read stable, all calls before the attach having succeeded. -/
theorem frPoll_bothStable {s : State} {l1 l2 : LineLevel} (hr : s.fr.ready = true) (ha : s.fr.attach = .unattached)
    (hv : (s.env.answerAt 0).status.vbusOk = true) (hs : ∀ k < 14, s.succeeds k = true)
    (hl1 : ∀ k < 6, (s.env.answerAt (2 + k)).level = l1) (hl2 : ∀ k < 6, (s.env.answerAt (8 + k)).level = l2) :
    s.frPoll = (s.afterFr (s.fr.sawVbus true) (measureCalls ++ sampleCalls s.params .cc1 5
      ++ sampleCalls s.params .cc2 5)).pollAttach l1 l2 :=
  (frPoll_measures hr ha (hs 0 (by omega)) hv (hs 1 (by omega))).trans (pollSample_bothStable
    (stableSample_afterFr_ok (fun k hk => hs (2 + k) (by omega)) hl1)
    (stableSample_afterFr_ok (fun k hk => hs (8 + k) (by omega)) hl2))

end Sys2Proof.Machine

/-! PROOFS. Everything FR_POLL can do, said once (O17), and the attach (O19). -/

namespace Sys2Proof.Machine

open Sys2Proof.Config

/-! ## What a poll can do to FR's registers (40_framer.md R132 to R140) -/

/-- The outcomes of a poll that finds f in FR's registers. -/
inductive PollOutcome (f : Fr) : Polled → Prop
  /-- It stops: unstable while Unattached, a primitive failed, or the gate. -/
  | stopped {st : Status} {t : State} (hst : st ∈ [.busy, .readError, .writeError, .notInitialised])
      (hbusy : st = .busy → f.attach = .unattached) (hfr : t.fr = f.sawVbus t.fr.vbusLast) :
      PollOutcome f (failPoll st t)
  /-- Nothing to report but, it may be, a good-CRC-sent. -/
  | quiet {t : State} (sent : Bool) (hfr : t.fr = f.sawVbus t.fr.vbusLast) :
      PollOutcome f ⟨.ok, { FrEvents.empty with goodCrcSent := sent }, t⟩
  | attached {t : State} (l1 l2 : LineLevel) (sel : CcSel) (ha : f.attach = .unattached)
      (hfr : t.fr = { f.sawVbus t.fr.vbusLast with cc1 := l1, cc2 := l2, ccSel := sel, attach := .attached }) :
      PollOutcome f ⟨.ok, { FrEvents.empty with attached := true }, t⟩
  | detached {t : State} (ha : f.attach = .attached) (hsense : f.vbusSenseEn = true)
      (hfr : t.fr = { f.sawVbus t.fr.vbusLast with
        cc1 := .opn, cc2 := .opn, ccSel := .none, attach := .unattached }) :
      PollOutcome f ⟨.ok, { FrEvents.empty with detached := true }, t⟩
  | received {t : State} (sent : Bool) (b p : List Byte) (ha : f.attach = .attached)
      (hfr : t.fr = (f.sawVbus t.fr.vbusLast).received b p) :
      PollOutcome f ⟨.ok, { FrEvents.empty with rxFrame := true, goodCrcSent := sent }, t⟩

/-- "else return E": what holds after a failed call with its direction's status, and after a successful one, holds. -/
theorem State.attempt_ends {α : Type} (P : α → Prop) {s : State} {c : XCall} {f : Status → State → α}
    {k : XAnswer → State → α} (hf : ∀ e, P (f (errorStatus e) (s.issue c).2))
    (hk : P (k (s.issue c).1 (s.issue c).2)) : P (s.attempt c f k) := by
  rcases State.attempt_cases s c f k with ⟨-, h⟩ | ⟨e, -, h⟩ <;> rw [h]
  · exact hk
  · exact hf _

/-- A failed primitive stops a poll with a status that is not Busy. -/
theorem PollOutcome.failed {f : Fr} {t : State} (hfr : t.fr = f.sawVbus t.fr.vbusLast) (e : TransportError) :
    PollOutcome f (failPoll (errorStatus e) t) :=
  .stopped (by cases e <;> decide) (fun h => absurd h (errorStatus_ne e).2) hfr

/-- A sample is stable, Busy, or stopped by a failed primitive. -/
def Sampled.ends (r : Sampled) : Prop := r.status = .ok ∨ r.status = .busy ∨ ∃ e, r.status = errorStatus e

theorem resample_ends (pin : Pin) (l : LineLevel) (n : Nat) (s : State) : (resample pin l n s).ends := by
  induction n generalizing s with
  | zero => exact .inl rfl
  | succ n ih =>
    refine State.attempt_ends Sampled.ends (fun e => .inr (.inr ⟨e, rfl⟩)) ?_
    split
    · exact ih _
    · exact .inr (.inl rfl)

theorem stableSample_ends (s : State) (pin : Pin) : (s.stableSample pin).ends :=
  State.attempt_ends Sampled.ends (fun e => .inr (.inr ⟨e, rfl⟩)) (resample_ends ..)

/-- A pin that is not stable stops a poll of the Unattached arm. -/
theorem PollOutcome.unstable {f : Fr} {r : Sampled} (ha : f.attach = .unattached) (hr : r.ends) (hne : r.status ≠ .ok)
    (hfr : r.state.fr = f.sawVbus r.state.fr.vbusLast) : PollOutcome f (failPoll r.status r.state) := by
  rcases hr with hok | hbusy | ⟨e, he⟩
  · exact absurd hok hne
  · rw [hbusy]; exact .stopped (by decide) (fun _ => ha) hfr
  · rw [he]; exact .failed hfr e

theorem pollSample_outcome {f : Fr} {s : State} (ha : f.attach = .unattached) (hfr : s.fr = f.sawVbus s.fr.vbusLast) :
    PollOutcome f s.pollSample := by
  have hfr1 : (s.stableSample .cc1).state.fr = f.sawVbus (s.stableSample .cc1).state.fr.vbusLast := by
    rw [stableSample_fr]; exact hfr
  have hfr2 : ((s.stableSample .cc1).state.stableSample .cc2).state.fr
      = f.sawVbus ((s.stableSample .cc1).state.stableSample .cc2).state.fr.vbusLast := by
    rw [stableSample_fr]; exact hfr1
  rw [State.pollSample]
  dsimp only
  split
  · exact .unstable ha (stableSample_ends ..) ‹_› hfr1
  · split
    · exact .unstable ha (stableSample_ends ..) ‹_› hfr2
    · refine State.attempt_ends _ (PollOutcome.failed hfr2) (State.attempt_ends _ (PollOutcome.failed hfr2) ?_)
      exact .attached _ _ _ ha (by rw [State.issue_snd_fr, State.issue_snd_fr, hfr2]; rfl)

theorem pollUnattached_outcome {s : State} (ha : s.fr.attach = .unattached) : PollOutcome s.fr s.pollUnattached := by
  refine State.attempt_ends _ (PollOutcome.failed rfl) ?_
  split
  · exact State.attempt_ends _ (PollOutcome.failed rfl) (pollSample_outcome ha rfl)
  · exact .quiet false rfl

theorem pollDetach_outcome {f : Fr} {s : State} (ha : f.attach = .attached) (hsense : f.vbusSenseEn = true)
    (hfr : s.fr = f.sawVbus s.fr.vbusLast) : PollOutcome f s.pollDetach := by
  refine State.attempt_ends _ (PollOutcome.failed hfr) (State.attempt_ends _ (PollOutcome.failed hfr) ?_)
  exact .detached ha hsense (by rw [State.issue_snd_fr, State.issue_snd_fr, hfr]; rfl)

theorem rxFail_outcome {f : Fr} {s : State} (hfr : s.fr = f.sawVbus s.fr.vbusLast) : PollOutcome f s.rxFail :=
  PollOutcome.failed (t := (s.issue .rxFlush).2) hfr .read

theorem pollReceive_outcome {f : Fr} {s : State} (ha : f.attach = .attached) (hfr : s.fr = f.sawVbus s.fr.vbusLast)
    (rxEmpty sent : Bool) : PollOutcome f (s.pollReceive rxEmpty { FrEvents.empty with goodCrcSent := sent }) := by
  rw [State.pollReceive]
  split
  · exact .quiet sent hfr
  · refine State.attempt_ends _ (fun _ => rxFail_outcome hfr) (State.attempt_ends _ (fun _ => rxFail_outcome hfr) ?_)
    exact .received sent _ _ ha (by rw [State.issue_snd_fr, State.issue_snd_fr, hfr]; rfl)

theorem pollLatched_outcome {f : Fr} {s : State} (ha : f.attach = .attached) (hfr : s.fr = f.sawVbus s.fr.vbusLast)
    (x : XStatus) : PollOutcome f (s.pollLatched x) := by
  rw [State.pollLatched]
  split
  · exact State.attempt_ends _ (PollOutcome.failed hfr) (.quiet false hfr)
  · split
    · exact State.attempt_ends _ (PollOutcome.failed hfr)
        (pollReceive_outcome (s := (s.issue .clearGcrcSent).2) ha hfr _ true)
    · exact pollReceive_outcome ha hfr _ false

theorem pollAttached_outcome {s : State} (ha : s.fr.attach = .attached) : PollOutcome s.fr s.pollAttached := by
  refine State.attempt_ends _ (PollOutcome.failed rfl) ?_
  dsimp only
  split
  · next h =>
    obtain ⟨hsense, -⟩ := h
    refine pollDetach_outcome ha hsense ?_
    rfl
  · refine pollLatched_outcome ha ?_ _
    rfl

theorem frPoll_outcome (s : State) : PollOutcome s.fr s.frPoll := by
  cases hr : s.fr.ready with
  | false => rw [State.frPoll_notReady hr]; exact .stopped (by decide) nofun rfl
  | true =>
    cases ha : s.fr.attach with
    | unattached => rw [State.frPoll_unattached hr ha]; exact pollUnattached_outcome ha
    | attached => rw [State.frPoll_attached hr ha]; exact pollAttached_outcome ha

/-! ## The same in the bytes answered (R132, R140; 30_encoding.md R112) -/

theorem FrEvents.byte_quiet (sent : Bool) :
    FrEvents.byte { FrEvents.empty with goodCrcSent := sent } = if sent then 8 else 0 := by
  cases sent <;> decide

theorem FrEvents.byte_received (sent : Bool) :
    FrEvents.byte { FrEvents.empty with rxFrame := true, goodCrcSent := sent } = if sent then 12 else 4 := by
  cases sent <;> decide

theorem FrEvents.byte_attached : FrEvents.byte { FrEvents.empty with attached := true } = 1 := by decide

theorem FrEvents.byte_detached : FrEvents.byte { FrEvents.empty with detached := true } = 2 := by decide

/-- What a poll's status and event byte say of FR's registers, f before and g after it. -/
def pollAnswers (f g : Fr) (st ev : Byte) : Prop :=
  st ∈ [0, 1, 2, 3, 5] ∧ ev ∈ [0, 1, 2, 4, 8, 12] ∧
    (st ≠ 0 → ev = 0 ∧ g = { f with vbusLast := g.vbusLast }) ∧
    (st = 1 → f.attach = .unattached) ∧
    (ev = 1 → f.attach = .unattached ∧ g.attach = .attached) ∧
    (ev = 2 → f.attach = .attached ∧ g.attach = .unattached ∧ f.vbusSenseEn = true) ∧
    (ev ≠ 1 → ev ≠ 2 → g.attach = f.attach ∧ g.cc1 = f.cc1 ∧ g.cc2 = f.cc2 ∧ g.ccSel = f.ccSel) ∧
    (ev ≠ 4 → ev ≠ 12 → g.rxToken = f.rxToken ∧ g.rxHdr = f.rxHdr ∧ g.rxObj = f.rxObj)

/-- VBUS_LAST is no pin, no attach state and no frame register. -/
theorem Fr.sawVbus_keeps {f g : Fr} (h : g = f.sawVbus g.vbusLast) :
    (g.attach = f.attach ∧ g.cc1 = f.cc1 ∧ g.cc2 = f.cc2 ∧ g.ccSel = f.ccSel) ∧
      g.rxToken = f.rxToken ∧ g.rxHdr = f.rxHdr ∧ g.rxObj = f.rxObj := by
  rw [h]
  exact ⟨⟨rfl, rfl, rfl, rfl⟩, rfl, rfl, rfl⟩

theorem Status.code_stopped {st : Status} (h : st ∈ [.busy, .readError, .writeError, .notInitialised]) :
    st.code ∈ ([0, 1, 2, 3, 5] : List Byte) := by
  revert h
  cases st <;> decide

theorem PollOutcome.answers {f : Fr} {r : Polled} (h : PollOutcome f r) :
    pollAnswers f r.state.fr r.status.code r.events.byte := by
  cases h with
  | stopped hst hbusy hfr =>
    obtain ⟨hpins, hrx⟩ := Fr.sawVbus_keeps hfr
    show pollAnswers f _ _ FrEvents.empty.byte
    rw [FrEvents.byte_empty]
    exact ⟨Status.code_stopped hst, by decide, fun _ => ⟨rfl, hfr⟩, fun h => hbusy (Status.code_inj (b := .busy) h),
      nofun, nofun, fun _ _ => hpins, fun _ _ => hrx⟩
  | quiet sent hfr =>
    obtain ⟨hpins, hrx⟩ := Fr.sawVbus_keeps hfr
    show pollAnswers f _ 0 (FrEvents.byte _)
    rw [FrEvents.byte_quiet]
    cases sent
    all_goals
      exact ⟨by decide, by decide, fun h => absurd rfl h, nofun, nofun, nofun, fun _ _ => hpins, fun _ _ => hrx⟩
  | attached l1 l2 sel ha hfr =>
    show pollAnswers f _ 0 (FrEvents.byte _)
    rw [FrEvents.byte_attached, hfr]
    exact ⟨by decide, by decide, fun h => absurd rfl h, nofun, fun _ => ⟨ha, rfl⟩, nofun, fun h => absurd rfl h,
      fun _ _ => ⟨rfl, rfl, rfl⟩⟩
  | detached ha hsense hfr =>
    show pollAnswers f _ 0 (FrEvents.byte _)
    rw [FrEvents.byte_detached, hfr]
    exact ⟨by decide, by decide, fun h => absurd rfl h, nofun, nofun, fun _ => ⟨ha, rfl, hsense⟩,
      fun _ h => absurd rfl h, fun _ _ => ⟨rfl, rfl, rfl⟩⟩
  | received sent b p ha hfr =>
    show pollAnswers f _ 0 (FrEvents.byte _)
    rw [FrEvents.byte_received, hfr]
    cases sent
    · exact ⟨by decide, by decide, fun h => absurd rfl h, nofun, nofun, nofun, fun _ _ => ⟨rfl, rfl, rfl, rfl⟩,
        fun h => absurd rfl h⟩
    · exact ⟨by decide, by decide, fun h => absurd rfl h, nofun, nofun, nofun, fun _ _ => ⟨rfl, rfl, rfl, rfl⟩,
        fun _ h => absurd rfl h⟩

/-- Settles O17: the outcomes of a poll (`frPoll_outcome`) in bytes, beside what no framer operation touches
(`frPoll_step`). -/
theorem pollOutcomes : Obligations.PollOutcomes := by
  intro s
  obtain ⟨hpe, hpl, hport, hparams, -, hlog, -, -⟩ := frPoll_step s
  have hinbox : s.frPoll.state.port.inbox = s.port.inbox := congrArg Port.inbox hport
  exact ⟨_, _, _, rfl, rfl, hpe, hpl, hparams, hinbox, hlog, (frPoll_outcome s).answers⟩

/-! ## The attach (R134) -/

/-- Only an attach answers an event that is written down elsewhere than in VBUS_LAST, while Unattached. -/
theorem PollOutcome.unattached_keeps {f : Fr} {r : Polled} (h : PollOutcome f r) (ha : f.attach = .unattached)
    (hr : [r.status.code, r.events.byte] ≠ [0, 1]) : r.state.fr = { f with vbusLast := r.state.fr.vbusLast } := by
  cases h with
  | stopped _ _ hfr => exact hfr
  | quiet _ hfr => exact hfr
  | attached => exact absurd (by rw [FrEvents.byte_attached]; rfl) hr
  | detached hatt => exact absurd (ha.symm.trans hatt) nofun
  | received _ _ _ hatt => exact absurd (ha.symm.trans hatt) nofun

/-- Settles O19: with VBUS present and both pins stable the attach's two primitives decide, and any other poll while
Unattached is one of `PollOutcome.unattached_keeps`. -/
theorem pollAttach : Obligations.PollAttach := by
  intro s hr ha
  refine ⟨fun l1 l2 hv hs hl1 hl2 => ?_, fun e h0 hv h1 => ?_, fun l1 l2 e hv hs hl1 hl2 => ⟨fun h14 => ?_,
    fun h14 h15 => ?_⟩, _, rfl, (frPoll_outcome s).unattached_keeps ha⟩
  · have hclear := (frPoll_bothStable hr ha hv (fun k hk => hs k (by omega)) hl1 hl2).trans
      (State.attempt_afterFr_ok _ .clearInterrupts (hs 14 (by omega)))
    exact exec_frPoll_ok (hclear.trans (State.attempt_afterFr_ok _ (.setCc (selectPin l1 l2)) (hs 15 (by omega))))
  · exact exec_frPoll_failed ((frPoll_vbus hr ha h0 hv).trans
      (State.attempt_afterFr_fail [.readStatus] (.power .measure) h1))
  · exact exec_frPoll_failed ((frPoll_bothStable hr ha hv hs hl1 hl2).trans
      (State.attempt_afterFr_fail _ .clearInterrupts h14))
  · exact exec_frPoll_failed (((frPoll_bothStable hr ha hv hs hl1 hl2).trans
      (State.attempt_afterFr_ok _ .clearInterrupts h14)).trans
      (State.attempt_afterFr_fail _ (.setCc (selectPin l1 l2)) h15))

end Sys2Proof.Machine

/-! PROOFS. FR_POLL while Attached: the detach, the latched flags, and one frame received or dropped (O21 to O24). -/

namespace Sys2Proof.Machine

open Sys2Proof.Config

/-! ## The two ways on from the status read (40_framer.md R136) -/

theorem frPoll_vbusGone {s : State} (hr : s.fr.ready = true) (ha : s.fr.attach = .attached)
    (hsense : s.fr.vbusSenseEn = true) (h0 : s.succeeds 0 = true) (hv : (s.env.answerAt 0).status.vbusOk = false) :
    s.frPoll = (s.afterFr (s.fr.sawVbus false) [.readStatus]).pollDetach := by
  rw [State.frPoll_attached hr ha, State.pollAttached, State.attempt_ok h0]
  dsimp only
  rw [State.issue_fst_status, hv]
  exact if_pos ⟨hsense, rfl⟩

theorem frPoll_vbusKept {s : State} (hr : s.fr.ready = true) (ha : s.fr.attach = .attached) (h0 : s.succeeds 0 = true)
    (hv : s.fr.vbusSenseEn = false ∨ (s.env.answerAt 0).status.vbusOk = true) :
    s.frPoll = (s.afterFr (s.fr.sawVbus (s.env.answerAt 0).status.vbusOk) [.readStatus]).pollLatched
      (s.env.answerAt 0).status := by
  rw [State.frPoll_attached hr ha, State.pollAttached, State.attempt_ok h0]
  dsimp only
  rw [State.issue_fst_status]
  refine if_neg fun ⟨hsense, hgone⟩ => ?_
  rcases hv with hoff | hok
  · exact absurd (hoff.symm.trans hsense) nofun
  · exact absurd (hok.symm.trans hgone) nofun

/-- Settles O21: the teardown's two primitives decide. -/
theorem pollDetach : Obligations.PollDetach := by
  intro s hr ha hsense h0 hv
  have hpoll := frPoll_vbusGone hr ha hsense h0 hv
  refine ⟨fun e h1 => ?_, fun e h1 h2 => ?_, fun h1 h2 => ?_⟩
  · exact exec_frPoll_failed (hpoll.trans (State.attempt_afterFr_fail [.readStatus] .teardown h1))
  all_goals have hteardown := hpoll.trans (State.attempt_afterFr_ok [.readStatus] .teardown h1)
  · exact exec_frPoll_failed (hteardown.trans (State.attempt_afterFr_fail _ (.power .oscillator) h2))
  · exact exec_frPoll_ok (hteardown.trans (State.attempt_afterFr_ok _ (.power .oscillator) h2))

/-! ## The latched flags (R137) -/

theorem pollLatched_hardReset {s : State} {x : XStatus} (h : x.iHardReset = true) :
    s.pollLatched x = s.attempt .pdReset failPoll fun _ t => ⟨.ok, FrEvents.empty, t⟩ := if_pos h

theorem pollLatched_sent {s : State} {x : XStatus} (h : x.iHardReset = false) (hg : x.iGcrcSent = true) :
    s.pollLatched x = s.attempt .clearGcrcSent failPoll fun _ t =>
      t.pollReceive x.rxEmpty { FrEvents.empty with goodCrcSent := true } := by
  rw [State.pollLatched, h, hg]; rfl

theorem pollLatched_none {s : State} {x : XStatus} (h : x.iHardReset = false) (hg : x.iGcrcSent = false) :
    s.pollLatched x = s.pollReceive x.rxEmpty FrEvents.empty := by
  rw [State.pollLatched, h, hg]; rfl

theorem pollReceive_empty (s : State) (ev : FrEvents) : s.pollReceive true ev = ⟨.ok, ev, s⟩ := rfl

/-- Settles O22: the hard reset first, then the good-CRC-sent; with the receive FIFO empty nothing follows. -/
theorem pollLatchedFlags : Obligations.PollLatchedFlags := by
  intro s hr ha h0 hv
  have hpoll := frPoll_vbusKept hr ha h0 hv
  refine ⟨fun hhard => ⟨fun e h1 => ?_, fun h1 => ?_⟩, fun hhard hsent => ⟨fun e h1 => ?_, fun h1 hempty => ?_⟩,
    fun hhard hsent hempty => ?_⟩
  · exact exec_frPoll_failed ((hpoll.trans (pollLatched_hardReset hhard)).trans
      (State.attempt_afterFr_fail [.readStatus] .pdReset h1))
  · exact exec_frPoll_ok ((hpoll.trans (pollLatched_hardReset hhard)).trans
      (State.attempt_afterFr_ok [.readStatus] .pdReset h1))
  · exact exec_frPoll_failed ((hpoll.trans (pollLatched_sent hhard hsent)).trans
      (State.attempt_afterFr_fail [.readStatus] .clearGcrcSent h1))
  · have hclear := (hpoll.trans (pollLatched_sent hhard hsent)).trans
      (State.attempt_afterFr_ok [.readStatus] .clearGcrcSent h1)
    rw [hempty] at hclear
    exact exec_frPoll_ok (hclear.trans (pollReceive_empty ..))
  · have hquiet := hpoll.trans (pollLatched_none hhard hsent)
    rw [hempty] at hquiet
    exact exec_frPoll_ok (hquiet.trans (pollReceive_empty ..))

/-! ## The receive FIFO (R138, R139) -/

/-- The calls before the receive FIFO is read: a latched good-CRC-sent is cleared first. -/
def receiveCalls (sent : Bool) : List XCall := [.readStatus] ++ if sent then [.clearGcrcSent] else []

theorem askCount_receiveCalls (sent : Bool) : askCount (receiveCalls sent) = if sent then 2 else 1 := by
  cases sent <;> rfl

/-- With a frame waiting and no hard reset, a poll reads the receive FIFO. -/
theorem frPoll_receives {s : State} (hr : s.fr.ready = true) (ha : s.fr.attach = .attached)
    (hv : s.fr.vbusSenseEn = false ∨ (s.env.answerAt 0).status.vbusOk = true)
    (hhard : (s.env.answerAt 0).status.iHardReset = false) (hrx : (s.env.answerAt 0).status.rxEmpty = false)
    (hs : ∀ j < askCount (receiveCalls (s.env.answerAt 0).status.iGcrcSent), s.succeeds j = true) :
    s.frPoll = (s.afterFr (s.fr.sawVbus (s.env.answerAt 0).status.vbusOk)
      (receiveCalls (s.env.answerAt 0).status.iGcrcSent)).pollReceive false
        { FrEvents.empty with goodCrcSent := (s.env.answerAt 0).status.iGcrcSent } := by
  rw [askCount_receiveCalls] at hs
  have hpoll := frPoll_vbusKept hr ha (hs 0 (by split <;> omega)) hv
  cases hsent : (s.env.answerAt 0).status.iGcrcSent with
  | true =>
    rw [hsent] at hs
    have hclear := (hpoll.trans (pollLatched_sent hhard hsent)).trans
      (State.attempt_afterFr_ok [.readStatus] .clearGcrcSent (hs 1 (by decide)))
    rw [hrx] at hclear
    exact hclear
  | false =>
    have hquiet := hpoll.trans (pollLatched_none hhard hsent)
    rw [hrx] at hquiet
    exact hquiet

/-- The count of objects, read off the two header bytes (R138). -/
theorem objectCount_ofLe16 (lo hi : Byte) : objectCount (ofLe16 lo hi) = hi.toNat / 16 % 8 := by
  have hlo := lo.isLt
  rw [objectCount_eq, ofLe16_toNat]; omega

theorem pollReceive_waiting (s : State) (ev : FrEvents) :
    s.pollReceive false ev = s.attempt (.rxRead 3) (fun _ t => t.rxFail) fun b t =>
      t.attempt (.rxRead (4 * objectCount (ofLe16 (b.bytes.getD 1 0) (b.bytes.getD 2 0)) + t.params.nCrcBytes))
        (fun _ u => u.rxFail) fun p u =>
          ⟨.ok, { ev with rxFrame := true }, { u with fr := u.fr.received b.bytes p.bytes }⟩ := rfl

/-- Two header bytes in numbers, the low one first (20_memory.md R67). -/
theorem ofLe16_eq_ofNat (lo hi : Byte) : ofLe16 lo hi = BitVec.ofNat 16 (lo.toNat + hi.toNat * 2 ^ 8) := by
  rw [← ofLe16_toNat, BitVec.ofNat_toNat, BitVec.setWidth_eq]

/-- A waiting frame is read in two parts, the second as long as the first says. -/
theorem pollReceive_preamble {s : State} {f : Fr} {cs : List XCall} {b0 b1 b2 : Byte} (ev : FrEvents)
    (h0 : s.succeeds (askCount cs) = true) (hb : s.bytesAt (askCount cs) 3 = [b0, b1, b2]) :
    (s.afterFr f cs).pollReceive false ev
      = (s.afterFr f (cs ++ [.rxRead 3])).attempt (.rxRead (4 * (b2.toNat / 16 % 8) + s.params.nCrcBytes))
        (fun _ t => t.rxFail) fun p t => ⟨.ok, { ev with rxFrame := true },
          { t with fr := t.fr.received [b0, b1, b2] p.bytes }⟩ := by
  have hbytes : ((XCall.rxRead 3).receive (s.env.oracle + askCount cs) (s.env.answerAt (askCount cs))).bytes
      = [b0, b1, b2] := hb
  rw [pollReceive_waiting, State.attempt_afterFr_ok cs (.rxRead 3) h0, hbytes, State.afterFr_params,
    ← objectCount_ofLe16 b1 b2]
  rfl

theorem pollReceive_frame {s : State} {f : Fr} {cs : List XCall} {b0 b1 b2 : Byte} {p : List Byte} (ev : FrEvents)
    (h0 : s.succeeds (askCount cs) = true) (hb : s.bytesAt (askCount cs) 3 = [b0, b1, b2])
    (h1 : s.succeeds (askCount cs + 1) = true)
    (hp : s.bytesAt (askCount cs + 1) (4 * (b2.toNat / 16 % 8) + s.params.nCrcBytes) = p) :
    (s.afterFr f cs).pollReceive false ev = ⟨.ok, { ev with rxFrame := true },
      s.afterFr (f.received [b0, b1, b2] p)
        (cs ++ [.rxRead 3, .rxRead (4 * (b2.toNat / 16 % 8) + s.params.nCrcBytes)])⟩ := by
  have hasks : askCount (cs ++ [.rxRead 3]) = askCount cs + 1 := askCount_append ..
  rw [pollReceive_preamble ev h0 hb,
    State.attempt_afterFr_ok _ (.rxRead (4 * (b2.toNat / 16 % 8) + s.params.nCrcBytes)) (by rwa [hasks]), hasks,
    List.append_assoc, ← hp]
  rfl

/-- RX_FAIL after the primitives cs (R139). -/
theorem rxFail_afterFr (s : State) (f : Fr) (cs : List XCall) :
    (s.afterFr f cs).rxFail = failPoll .readError (s.afterFr f (cs ++ [.rxFlush])) := by
  rw [State.rxFail, State.issue_afterFr s f cs (c := .rxFlush) nofun]

theorem pollReceive_preambleFails {s : State} {f : Fr} {cs : List XCall} (ev : FrEvents)
    (h0 : s.succeeds (askCount cs) = false) :
    (s.afterFr f cs).pollReceive false ev = failPoll .readError (s.afterFr f (cs ++ [.rxRead 3, .rxFlush])) := by
  obtain ⟨e, he⟩ := State.not_succeeds h0
  rw [pollReceive_waiting, State.attempt_afterFr_fail cs (.rxRead 3) he, rxFail_afterFr, List.append_assoc]; rfl

theorem pollReceive_payloadFails {s : State} {f : Fr} {cs : List XCall} {b0 b1 b2 : Byte} (ev : FrEvents)
    (h0 : s.succeeds (askCount cs) = true) (hb : s.bytesAt (askCount cs) 3 = [b0, b1, b2])
    (h1 : s.succeeds (askCount cs + 1) = false) :
    (s.afterFr f cs).pollReceive false ev = failPoll .readError (s.afterFr f
      (cs ++ [.rxRead 3, .rxRead (4 * (b2.toNat / 16 % 8) + s.params.nCrcBytes), .rxFlush])) := by
  obtain ⟨e, he⟩ := State.not_succeeds h1
  have hasks : askCount (cs ++ [.rxRead 3]) = askCount cs + 1 := askCount_append ..
  rw [pollReceive_preamble ev h0 hb, State.attempt_afterFr_fail _ _ (by rwa [hasks]), rxFail_afterFr,
    List.append_assoc, List.append_assoc]
  rfl

/-- The first n objects of objs are the payload's, in numbers, the lowest byte first (30_encoding.md R88). -/
def payloadHolds (p : List Byte) (objs : List Obj) (n : Nat) : Prop :=
  ∀ i < n, (objs.getD i 0).toNat = (p.getD (4 * i) 0).toNat + (p.getD (4 * i + 1) 0).toNat * 2 ^ 8
      + (p.getD (4 * i + 2) 0).toNat * 2 ^ 16 + (p.getD (4 * i + 3) 0).toNat * 2 ^ 24

/-- What a frame register is written with: the payload's object below the count, 0 above it. -/
theorem rxObjAt_eq_getD {p : List Byte} {objs : List Obj} {n : Nat} (hlen : objs.length = n)
    (h : payloadHolds p objs n) (i : Nat) :
    rxObjAt p n i = objs.getD i 0 := by
  rw [rxObjAt]
  split
  · next hi => exact BitVec.eq_of_toNat_eq (by rw [objAt, ofLe32_toNat, h i hi])
  · next hi => exact (List.getD_eq_default _ _ (by omega)).symm

/-- The frame registers in numbers (40_framer.md R138): token, header, and the count's objects with 0 above them. -/
theorem Fr.received_eq {f : Fr} {b0 b1 b2 : Byte} {p : List Byte} {objs : List Obj}
    (hlen : objs.length = b2.toNat / 16 % 8)
    (h : payloadHolds p objs (b2.toNat / 16 % 8)) :
    f.received [b0, b1, b2] p = { f with
      rxToken := b0
      rxHdr := BitVec.ofNat 16 (b1.toNat + b2.toNat * 2 ^ 8)
      rxObj := ⟨objs.getD 0 0, objs.getD 1 0, objs.getD 2 0, objs.getD 3 0, objs.getD 4 0, objs.getD 5 0,
        objs.getD 6 0⟩ } := by
  have hcount : objectCount (ofLe16 ([b0, b1, b2].getD 1 0) ([b0, b1, b2].getD 2 0)) = b2.toNat / 16 % 8 :=
    objectCount_ofLe16 b1 b2
  simp only [Fr.received, hcount, rxObjAt_eq_getD hlen h, ← ofLe16_eq_ofNat]
  rfl

/-- Settles O23: both reads succeed (`pollReceive_frame`), and the registers hold their bytes in numbers. -/
theorem pollReceivesOneFrame : Obligations.PollReceivesOneFrame := by
  intro s b0 b1 b2 p objs hr ha
  dsimp only
  rw [← askCount_receiveCalls]
  intro hv hhard hrx hs hb hp hlen hobjs
  have hframe := (frPoll_receives hr ha hv hhard hrx fun j hj => hs j (by omega)).trans
    (pollReceive_frame _ (hs _ (by omega)) hb (hs _ (by omega)) hp)
  rw [exec_frPoll_ok hframe, Fr.received_eq hlen hobjs]
  exact congrArg (fun byte => Host.Outcome.next (State.reply _ [0, byte])) (FrEvents.byte_received _)

/-- Settles O24: the first part's read fails, or the second's. -/
theorem pollDropsAFrameItCannotRead : Obligations.PollDropsAFrameItCannotRead := by
  intro s hr ha
  dsimp only
  rw [← askCount_receiveCalls]
  intro hv hhard hrx hs
  have hpoll := frPoll_receives hr ha hv hhard hrx hs
  exact ⟨fun h0 => exec_frPoll_failPoll (hpoll.trans (pollReceive_preambleFails _ h0)),
    fun b0 b1 b2 h0 hb h1 => exec_frPoll_failPoll (hpoll.trans (pollReceive_payloadFails _ h0 hb h1))⟩

end Sys2Proof.Machine

/-! PROOFS. PE's receive side (spec/41_codec_rx.md): the row of a table that a frame or a received message runs, the
header patterns that select it, and PE_HANDLE_MSG as the received message of its header (O3, O28). -/

namespace Sys2Proof.Machine

open Sys2Proof.Config

/-! ## One step for every entry (41_codec_rx.md R170) -/

/-- The step of an entry: row k of a table becomes the current message, and its handler, if it has one, runs on the
objects. -/
def State.receivedRow (s : State) (t : Table) (k : BitVec 5) (objs : List Obj) : Host.Outcome State Fault Refusal :=
  s.received ((s.receiving t k).runHandler s.params objs (handlerOf t k))

/-- PE_HANDLE_MSG runs the row that the clamped index of the header's table stands for. -/
theorem exec_peHandleMsg_row {s : State} (hw : s.params.codes.wf = true) (h : Half) (objs : List Obj) :
    exec (.peHandleMsg h objs) s = s.receivedRow (tableOf (h.extractLsb' 15 1) (objectCount h))
      (codeRow s.params (tableOf (h.extractLsb' 15 1) (objectCount h))
        (clampIndex (tableOf (h.extractLsb' 15 1) (objectCount h)) (h.extractLsb' 0 5)))
      (present (objectCount h) objs) := by
  rw [State.receivedRow, State.receiving, typeCode_codeRow hw]
  rfl

theorem clampIndex_of_le {t : Table} {typ : BitVec 5} (h : typ.toNat ≤ lastIndex t) : clampIndex t typ = typ := by
  rw [clampIndex, Nat.min_eq_left h, BitVec.ofNat_toNat, BitVec.setWidth_eq]

theorem clampIndex_of_ge {t : Table} {typ : BitVec 5} (h : lastIndex t ≤ typ.toNat) :
    clampIndex t typ = BitVec.ofNat 5 (lastIndex t) := by
  rw [clampIndex, Nat.min_eq_right h]

/-- A control message runs the row its type is clamped to; no control handler looks at objects. -/
theorem exec_ctrlInstr (typ : BitVec 5) (f : RxFields) (objs : List Obj) (s : State) :
    exec (ctrlInstr typ f) s = s.receivedRow .ctrl (clampIndex .ctrl typ) objs := by
  unfold ctrlInstr
  split
  case h_24 =>
    have hge : 23 ≤ typ.toNat := by simp only [imp_false] at *; omega
    rw [clampIndex_of_ge (t := .ctrl) hge]
    rfl
  all_goals
    rename_i htyp
    rw [typ_of_toNat htyp]
    rfl

/-- A data message runs the row its type is clamped to, on its objects. -/
theorem exec_dataInstr (typ : BitVec 5) (f : RxFields) (objs : List Obj) (s : State) :
    exec (dataInstr typ f objs) s = s.receivedRow .data (clampIndex .data typ) objs := by
  unfold dataInstr
  split
  case h_17 =>
    have hge : 16 ≤ typ.toNat := by simp only [imp_false] at *; omega
    rw [clampIndex_of_ge (t := .data) hge]
    rfl
  all_goals
    rename_i htyp
    rw [typ_of_toNat htyp]
    rfl

/-- An extended message runs the row its type is clamped to, on its objects. -/
theorem exec_extInstr (typ : BitVec 5) (f : RxFields) (objs : List Obj) (s : State) :
    exec (extInstr typ f objs) s = s.receivedRow .ext (clampIndex .ext typ) objs := by
  unfold extInstr
  split
  case h_17 =>
    have hge : 16 ≤ typ.toNat := by simp only [imp_false] at *; omega
    rw [clampIndex_of_ge (t := .ext) hge]
    rfl
  all_goals
    rename_i htyp
    rw [typ_of_toNat htyp]
    rfl

/-- The received message of a header runs the row of the header's own table and type. -/
theorem exec_rxInstr (h : Half) (objs : List Obj) (s : State) :
    exec (rxInstr h objs) s = s.receivedRow (tableOf (h.extractLsb' 15 1) (objectCount h))
      (clampIndex (tableOf (h.extractLsb' 15 1) (objectCount h)) (h.extractLsb' 0 5)) objs := by
  unfold rxInstr tableOf
  split
  · exact exec_extInstr ..
  · split
    · exact exec_ctrlInstr ..
    · exact exec_dataInstr ..

/-! ## PE_HANDLE_MSG and the message its header selects -/

theorem tableOf_ne_none (ext : BitVec 1) (count : Nat) : tableOf ext count ≠ .none := by
  unfold tableOf
  split
  · decide
  · split <;> decide

theorem tableCodes_tableOf (p : Params) (h : Half) :
    tableCodes p (tableOf (h.extractLsb' 15 1) (objectCount h)) = codesOfHeader p.codes h := by
  unfold tableOf codesOfHeader
  split
  · rfl
  · split <;> rfl

/-- The row of a clamped code is the clamped row: codes below LAST are those of the rows below it, and one at or above
LAST is its own row. -/
theorem codeRow_clampIndex {p : Params} (hw : p.codes.wf = true) {t : Table} (ht : t ≠ .none) (c : BitVec 5) :
    codeRow p t (clampIndex t c) = clampIndex t (codeRow p t c) := by
  have hperm := tableCodes_permute hw ht
  obtain ⟨hlen, -, -⟩ := codesPermute_iff.1 hperm
  rcases Nat.lt_or_ge c.toNat (lastIndex t) with hc | hc
  · have hrow : (codeRow p t c).toNat < lastIndex t := by
      have hcode : (typeCode p t (codeRow p t c)).toNat < lastIndex t := by rwa [typeCode_codeRow hw]
      exact (codeIn_lt_iff hperm _).1 hcode
    rw [clampIndex_of_le hc.le, clampIndex_of_le hrow.le]
  · have hlast : (BitVec.ofNat 5 (lastIndex t)).toNat = lastIndex t := by cases t <;> rfl
    have hself : ∀ d : BitVec 5, lastIndex t ≤ d.toNat → codeRow p t d = d := fun d hd => by
      rw [codeRow, rowIn, if_neg (by omega)]
    rw [hself c hc, clampIndex_of_ge hc, hself _ hlast.ge]

/-- Settles O28: the translated header keeps its table, and its type is the row of the frame's code; an object list of
the announced length is run on as it is. -/
theorem handleMsgRunsTheReceivedMessage : Obligations.HandleMsgRunsTheReceivedMessage := by
  intro h objs s hw hlen
  have hrow : exec (.peHandleMsg h objs) s = exec (rxInstr (toTableCode s.params.codes h) objs) s := by
    rw [exec_peHandleMsg_row hw, present_eq (hlen.trans (objectCount_eq h).symm),
      codeRow_clampIndex hw (tableOf_ne_none _ _), exec_rxInstr, toTableCode, objectCount_withType,
      withType_field h _ (by decide), withType_typ, codeRow, tableCodes_tableOf]
  exact ⟨hrow, fun hdef => by rw [hrow, hdef, toTableCode_default]⟩

/-! ## Headers as match and mask (41_codec_rx.md R175) -/

/-- The mask of the bits from hi up and of the type's bits from lo up. -/
def headerMask (hi lo : Nat) : Nat := (2 ^ (16 - hi) - 1) <<< hi ||| (2 ^ (5 - lo) - 1) <<< lo

/-- A masked header in numbers: the bits below hi and those below lo are cut off. -/
theorem and_headerMask {n hi lo : Nat} (hn : n < 2 ^ 16) (hhi : 5 ≤ hi) :
    n &&& headerMask hi lo = n / 2 ^ hi * 2 ^ hi + n % 2 ^ 5 / 2 ^ lo * 2 ^ lo := by
  have hlow : n % 2 ^ 5 / 2 ^ lo * 2 ^ lo < 2 ^ hi :=
    calc n % 2 ^ 5 / 2 ^ lo * 2 ^ lo ≤ n % 2 ^ 5 := Nat.div_mul_le_self ..
      _ < 2 ^ 5 := Nat.mod_lt _ (by decide)
      _ ≤ 2 ^ hi := Nat.pow_le_pow_right (by decide) hhi
  have hor := Nat.two_pow_add_eq_or_of_lt hlow (n / 2 ^ hi)
  rw [Nat.mul_comm _ (2 ^ hi), hor, Nat.mul_comm (2 ^ hi), ← Nat.shiftRight_eq_div_pow, ← Nat.shiftRight_eq_div_pow,
    ← Nat.shiftLeft_eq, ← Nat.shiftLeft_eq]
  apply Nat.eq_of_testBit_eq
  intro i
  have hbig : 16 ≤ i → n.testBit i = false := fun hi16 =>
    Nat.testBit_lt_two_pow (hn.trans_le (Nat.pow_le_pow_right (by decide) hi16))
  simp only [headerMask, Nat.testBit_and, Nat.testBit_or, Nat.testBit_shiftLeft, Nat.testBit_shiftRight,
    Nat.testBit_two_pow_sub_one, Nat.testBit_mod_two_pow]
  grind

/-- A header matches a value under such a mask where its class and type bits are the value's. -/
theorem and_mask_eq_iff {h m v : Half} (hi lo : Nat) (hm : m.toNat = headerMask hi lo) (hhi : 5 ≤ hi) :
    h &&& m = v ↔ h.toNat / 2 ^ hi * 2 ^ hi + h.toNat % 2 ^ 5 / 2 ^ lo * 2 ^ lo = v.toNat := by
  rw [← BitVec.toNat_inj, BitVec.toNat_and, hm, and_headerMask h.isLt hhi]

/-- The class of a header in numbers: its top four bits are 0, 1 to 7, or 8 and more. -/
theorem tableOf_header (h : Half) :
    (h.toNat / 2 ^ 12 = 0 ∧ tableOf (h.extractLsb' 15 1) (objectCount h) = .ctrl) ∨
    (1 ≤ h.toNat / 2 ^ 12 ∧ h.toNat / 2 ^ 12 < 8 ∧ tableOf (h.extractLsb' 15 1) (objectCount h) = .data) ∨
    (8 ≤ h.toNat / 2 ^ 12 ∧ tableOf (h.extractLsb' 15 1) (objectCount h) = .ext) := by
  have hlt := h.isLt
  have hext : h.extractLsb' 15 1 = 1 ↔ h.toNat / 2 ^ 15 % 2 ^ 1 = 1 := by
    rw [← BitVec.toNat_inj, half_field]; rfl
  simp only [tableOf, hext, objectCount_eq]
  split
  · exact .inr (.inr ⟨by omega, rfl⟩)
  · split
    · exact .inl ⟨by omega, rfl⟩
    · exact .inr (.inl ⟨by omega, by omega, rfl⟩)

/-- No handler writes the current message. -/
theorem Pe.runHandler_current (pe : Pe) (p : Params) (objs : List Obj) (hd : Option Handler) :
    (pe.runHandler p objs hd).2.curTable = pe.curTable ∧ (pe.runHandler p objs hd).2.curIndex = pe.curIndex := by
  match hd with
  | some .reject => rw [Pe.runHandler, Pe.rejectedBy_snd]; exact ⟨rfl, rfl⟩
  | some .goodCrc | some .accept | some .psRdy | some .sourceCap | some .ppsStatus | some .nop | none =>
    exact ⟨rfl, rfl⟩

theorem clampIndex_toNat (t : Table) (h : Half) :
    (clampIndex t (h.extractLsb' 0 5)).toNat = min (h.toNat % 2 ^ 5) (lastIndex t) := by
  rw [clampIndex, BitVec.toNat_ofNat, headerType_toNat]
  omega

/-- PE_HANDLE_MSG makes the clamped type of the header's table current. -/
theorem exec_peHandleMsg_current (h : Half) (objs : List Obj) (s : State) :
    ∃ t, exec (.peHandleMsg h objs) s = .next t ∧ t.pe.curTable = tableOf (h.extractLsb' 15 1) (objectCount h) ∧
      t.pe.curIndex = clampIndex (tableOf (h.extractLsb' 15 1) (objectCount h)) (h.extractLsb' 0 5) :=
  ⟨_, rfl, Pe.runHandler_current _ _ _ _⟩

/-- Settles O3: the current message is the header's class and clamped type (`tableOf_header`, `clampIndex_toNat`), and
each pattern says the same of the header in numbers (`and_mask_eq_iff`). -/
theorem receivedHeaderPatterns : Obligations.ReceivedHeaderPatterns := by
  intro s h objs
  obtain ⟨t, hexec, htab, hidx⟩ := exec_peHandleMsg_current h objs s
  have hlt := h.isLt
  refine ⟨t, hexec, ?_⟩
  simp only [htab, hidx, clampIndex_toNat,
    and_mask_eq_iff (m := 0xF01F) 12 0 (by decide) (by decide),
    and_mask_eq_iff (m := 0xF018) 12 3 (by decide) (by decide),
    and_mask_eq_iff (m := 0xC01F) 14 0 (by decide) (by decide),
    and_mask_eq_iff (m := 0xE01F) 13 0 (by decide) (by decide),
    and_mask_eq_iff (m := 0xC010) 14 4 (by decide) (by decide),
    and_mask_eq_iff (m := 0xE010) 13 4 (by decide) (by decide),
    and_mask_eq_iff (m := 0xF010) 12 4 (by decide) (by decide),
    and_mask_eq_iff (m := 0x801F) 15 0 (by decide) (by decide),
    and_mask_eq_iff (m := 0x8010) 15 4 (by decide) (by decide)]
  simp only [BitVec.ofNat_eq_ofNat, BitVec.toNat_ofNat]
  rcases tableOf_header h with ⟨hclass, heq⟩ | ⟨hmin, hmax, heq⟩ | ⟨hclass, heq⟩
  all_goals
    simp only [heq, lastIndex, reduceCtorEq, false_and, true_and, false_iff, false_or, or_false]
    refine ⟨fun k hk => ?_, ?_, fun k hk => ?_, ?_, fun k hk => ?_, ?_, ?_⟩
    all_goals omega

end Sys2Proof.Machine

/-! PROOFS. The entries without a handler, the handlers, and the reply each entry calls for (O29 to O36). -/

namespace Sys2Proof.Machine

open Sys2Proof.Config

/-! ## PE_HANDLE_MSG on the headers of one row -/

/-- Row k of a table as the current message, and an event byte answered. -/
def State.current (s : State) (t : Table) (k : BitVec 5) (ev : Byte) : State :=
  State.reply { s with pe := { s.pe with curTable := t, curIndex := typeCode s.params t k } } [ev]

/-- A header's type that is the code of a row of the table is not cut to another one. -/
theorem min_lastIndex_eq {p : Params} (hw : p.codes.wf = true) {t : Table} (ht : t ≠ .none) {k : BitVec 5}
    (hk : k.toNat ≤ lastIndex t) {n : Nat} (hn : n = (typeCode p t k).toNat) :
    min n (lastIndex t) = (typeCode p t k).toNat := by
  have hcode : (typeCode p t k).toNat ≤ lastIndex t := by
    rcases Nat.lt_or_eq_of_le hk with hlt | heq
    · exact (typeCode_lt hw ht hlt).le
    · obtain ⟨hlen, -, -⟩ := codesPermute_iff.1 (tableCodes_permute hw ht)
      rwa [typeCode, codeIn, List.getD_eq_default _ _ (by omega)]
  rw [hn, Nat.min_eq_left hcode]

theorem exec_peHandleMsg_ctrl {s : State} (hw : s.params.codes.wf = true) {h : Half} {k : BitVec 5} (objs : List Obj)
    (hk : min (h.toNat % 2 ^ 5) 23 = (typeCode s.params .ctrl k).toNat) (hz : h.toNat / 2 ^ 12 = 0) :
    exec (.peHandleMsg h objs) s = s.receivedRow .ctrl k [] :=
  congrArg s.received (s.pe.handleMsg_ctrl hw objs hk hz)

theorem exec_peHandleMsg_data {s : State} (hw : s.params.codes.wf = true) {h : Half} {k : BitVec 5} {objs : List Obj}
    (hk : min (h.toNat % 2 ^ 5) 16 = (typeCode s.params .data k).toNat) (hc : h.toNat / 2 ^ 12 = objs.length)
    (h1 : 1 ≤ objs.length) (h7 : objs.length ≤ 7) : exec (.peHandleMsg h objs) s = s.receivedRow .data k objs :=
  congrArg s.received (s.pe.handleMsg_data hw hk hc h1 h7)

theorem exec_peHandleMsg_ext {s : State} (hw : s.params.codes.wf = true) {h : Half} {k : BitVec 5} {objs : List Obj}
    (hk : min (h.toNat % 2 ^ 5) 16 = (typeCode s.params .ext k).toNat) (hc : h.toNat / 2 ^ 12 = 8 + objs.length) :
    exec (.peHandleMsg h objs) s = s.receivedRow .ext k objs :=
  congrArg s.received (s.pe.handleMsg_ext hw hk hc)

/-- A control header with the type code of row k, not cut to another one. -/
theorem exec_peHandleMsg_ctrlCode {s : State} (hw : s.params.codes.wf = true) {h : Half} {k : BitVec 5}
    (hle : k.toNat ≤ lastIndex .ctrl) (objs : List Obj) (hk : h.toNat % 2 ^ 5 = (typeCode s.params .ctrl k).toNat)
    (hz : h.toNat / 2 ^ 12 = 0) : exec (.peHandleMsg h objs) s = s.receivedRow .ctrl k [] :=
  exec_peHandleMsg_ctrl hw objs (min_lastIndex_eq hw (by decide) hle hk) hz

theorem exec_peHandleMsg_dataCode {s : State} (hw : s.params.codes.wf = true) {h : Half} {k : BitVec 5}
    {objs : List Obj} (hle : k.toNat ≤ lastIndex .data) (hk : h.toNat % 2 ^ 5 = (typeCode s.params .data k).toNat)
    (hc : h.toNat / 2 ^ 12 = objs.length) (h1 : 1 ≤ objs.length) (h7 : objs.length ≤ 7) :
    exec (.peHandleMsg h objs) s = s.receivedRow .data k objs :=
  exec_peHandleMsg_data hw (min_lastIndex_eq hw (by decide) hle hk) hc h1 h7

theorem exec_peHandleMsg_extCode {s : State} (hw : s.params.codes.wf = true) {h : Half} {k : BitVec 5} {objs : List Obj}
    (hle : k.toNat ≤ lastIndex .ext) (hk : h.toNat % 2 ^ 5 = (typeCode s.params .ext k).toNat)
    (hc : h.toNat / 2 ^ 12 = 8 + objs.length) : exec (.peHandleMsg h objs) s = s.receivedRow .ext k objs :=
  exec_peHandleMsg_ext hw (min_lastIndex_eq hw (by decide) hle hk) hc

/-! ## What a row leaves -/

/-- What a received message leaves, its event byte as a number. -/
theorem State.received_eq {s : State} {ev : PeEvents} {pe : Pe} {b : Byte} (hb : ev.byte = b) :
    s.received (ev, pe) = .next (State.reply { s with pe := pe } [b]) := by
  rw [State.received, hb]

/-- A row whose handler does nothing leaves itself as the current message, and no event. -/
theorem receivedRow_noHandler {t : Table} {k : BitVec 5} (hh : handlerOf t k = none ∨ handlerOf t k = some .nop)
    (s : State) (objs : List Obj) : s.receivedRow t k objs = .next (s.current t k 0) := by
  rw [State.receivedRow]
  rcases hh with hnone | hnop
  · rw [hnone]
    exact State.received_eq PeEvents.byte_empty
  · rw [hnop]
    exact State.received_eq PeEvents.byte_empty

/-! ## PE_RESPOND after a message (42_codec_tx.md R210, R211) -/

/-- The reply is the one that the current message's row calls for. -/
theorem exec_peRespond_row {u : State} (hw : u.params.codes.wf = true) {t : Table} {k : BitVec 5}
    (ht : u.pe.curTable = t) (hk : u.pe.curIndex = typeCode u.params t k) :
    exec .peRespond u = .next (u.reply (respondBytes ((responderOf t k).map (u.pe.runResponder u.params)))) :=
  congrArg (fun r => Host.Outcome.next (u.reply (respondBytes r))) (u.pe.respond_current hw ht hk)

/-- It is built from registers that the current message leaves alone. -/
theorem exec_peRespond_current {s : State} (hw : s.params.codes.wf = true) (t : Table) (k : BitVec 5) (ev : Byte) :
    exec .peRespond (s.current t k ev) = .next ((s.current t k ev).reply
      (respondBytes ((responderOf t k).map (s.pe.runResponder s.params)))) := by
  have hbuild : (s.current t k ev).pe.runResponder s.params = s.pe.runResponder s.params := by
    funext r
    cases r <;> rfl
  rw [← hbuild]
  exact exec_peRespond_row (u := s.current t k ev) hw rfl rfl

/-- With a responder the reply is true and the message built, in bytes. -/
theorem exec_peRespond_reply {s : State} (hw : s.params.codes.wf = true) {t : Table} {k : BitVec 5} {ev : Byte}
    {r : Responder} {bs : List Byte} (hr : responderOf t k = some r) (hb : (s.pe.runResponder s.params r).bytes = bs) :
    exec .peRespond (s.current t k ev) = .next ((s.current t k ev).reply (1 :: bs)) := by
  rw [exec_peRespond_current hw, hr, ← hb]
  rfl

/-- A built control message in bytes. -/
theorem ctrlFrame_bytes (pe : Pe) (p : Params) (k : BitVec 5) :
    Frame.bytes ⟨pe.header p .ctrl k 0 0, []⟩
      = le16 (BitVec.ofNat 16 (0x0080 + (typeCode p .ctrl k).toNat + pe.msgId.toNat * 2 ^ 9)) := by
  rw [Frame.bytes, Pe.header_eq]
  rfl

/-! ## The entries answered Not_Supported (41_codec_rx.md R188 to R192, R410 to R450) -/

/-- The entries whose handler does nothing and whose responder is r_not_supported. -/
def answersNotSupported (t : Table) (k : BitVec 5) : Bool :=
  (handlerOf t k == none || handlerOf t k == some .nop) && responderOf t k == some .notSupported
    && k.toNat ≤ lastIndex t

theorem answersNotSupported_iff {t : Table} {k : BitVec 5} : answersNotSupported t k = true ↔
    (handlerOf t k = none ∨ handlerOf t k = some .nop) ∧ responderOf t k = some .notSupported ∧
      k.toNat ≤ lastIndex t := by
  simp only [answersNotSupported, Bool.and_eq_true, Bool.or_eq_true, beq_iff_eq, decide_eq_true_eq, and_assoc]

/-- The received message i is row k of table t, one answered Not_Supported. -/
def State.unsupported (s : State) (i : Instr) (t : Table) (k : BitVec 5) : Prop :=
  exec i s = s.receivedPlain t k ∧ answersNotSupported t k = true

theorem State.unsupported.exec_eq {s : State} {i : Instr} {t : Table} {k : BitVec 5} (h : s.unsupported i t k) :
    exec i s = .next (s.current t k 0) :=
  h.1.trans (s.receivedPlain_eq t k)

theorem State.unsupported.le_lastIndex {s : State} {i : Instr} {t : Table} {k : BitVec 5} (h : s.unsupported i t k) :
    k.toNat ≤ lastIndex t := by
  obtain ⟨-, -, hle⟩ := answersNotSupported_iff.1 h.2
  exact hle

/-- Such a row leaves what the message leaves, whatever objects it is run on. -/
theorem State.unsupported.receivedRow_eq {s : State} {i : Instr} {t : Table} {k : BitVec 5} (h : s.unsupported i t k)
    (objs : List Obj) : s.receivedRow t k objs = .next (s.current t k 0) := by
  obtain ⟨hhandler, -, -⟩ := answersNotSupported_iff.1 h.2
  exact receivedRow_noHandler hhandler s objs

theorem State.unsupported.respond {s : State} {i : Instr} {t : Table} {k : BitVec 5} (h : s.unsupported i t k)
    (hw : s.params.codes.wf = true) :
    exec .peRespond (s.current t k 0) = .next ((s.current t k 0).reply (1 :: le16
      (BitVec.ofNat 16 (0x0080 + (typeCode s.params .ctrl 16).toNat + s.pe.msgId.toNat * 2 ^ 9)))) := by
  obtain ⟨-, hresponder, -⟩ := answersNotSupported_iff.1 h.2
  exact exec_peRespond_reply hw hresponder (ctrlFrame_bytes s.pe s.params 16)

/-- Settles O29: each message is a row of the CTRL table that is answered Not_Supported. -/
theorem unnamedControlMessages : Obligations.UnnamedControlMessages := by
  intro f s hw
  refine ⟨typeCode_default, List.forall_iff_forall_mem.1 (List.Forall.imp
    (p := fun p => s.unsupported p.1 .ctrl p.2) ?_ ?_)⟩
  · rintro ⟨i, k⟩ hp
    refine ⟨hp.exec_eq, fun h hk hz => ?_, hp.respond hw⟩
    exact (exec_peHandleMsg_ctrlCode hw hp.le_lastIndex [] hk hz).trans (hp.receivedRow_eq _)
  · exact ⟨⟨rfl, rfl⟩, ⟨rfl, rfl⟩, ⟨rfl, rfl⟩, ⟨rfl, rfl⟩, ⟨rfl, rfl⟩, ⟨rfl, rfl⟩, ⟨rfl, rfl⟩, ⟨rfl, rfl⟩, ⟨rfl, rfl⟩,
      ⟨rfl, rfl⟩, ⟨rfl, rfl⟩, ⟨rfl, rfl⟩⟩

/-- Settles O30: each message is a row of the DATA table that is answered Not_Supported. -/
theorem unnamedDataMessages : Obligations.UnnamedDataMessages := by
  intro f objs s hw
  refine ⟨typeCode_default, List.forall_iff_forall_mem.1 (List.Forall.imp
    (p := fun p => s.unsupported p.1 .data p.2) ?_ ?_)⟩
  · rintro ⟨i, k⟩ hp
    refine ⟨hp.exec_eq, fun h hk hc h1 h7 => ?_, hp.respond hw⟩
    exact (exec_peHandleMsg_dataCode hw hp.le_lastIndex hk hc h1 h7).trans (hp.receivedRow_eq _)
  · exact ⟨⟨rfl, rfl⟩, ⟨rfl, rfl⟩, ⟨rfl, rfl⟩, ⟨rfl, rfl⟩, ⟨rfl, rfl⟩, ⟨rfl, rfl⟩, ⟨rfl, rfl⟩, ⟨rfl, rfl⟩, ⟨rfl, rfl⟩,
      ⟨rfl, rfl⟩, ⟨rfl, rfl⟩, ⟨rfl, rfl⟩⟩

/-- Settles O31: each message is a row of the EXT table that is answered Not_Supported. -/
theorem unnamedExtendedMessages : Obligations.UnnamedExtendedMessages := by
  intro f objs s hw
  refine ⟨typeCode_default, List.forall_iff_forall_mem.1 (List.Forall.imp
    (p := fun p => s.unsupported p.1 .ext p.2) ?_ ?_)⟩
  · rintro ⟨i, k⟩ hp
    refine ⟨hp.exec_eq, fun h hk hc => ?_, hp.respond hw⟩
    exact (exec_peHandleMsg_extCode hw hp.le_lastIndex hk hc).trans (hp.receivedRow_eq _)
  · exact ⟨⟨rfl, rfl⟩, ⟨rfl, rfl⟩, ⟨rfl, rfl⟩, ⟨rfl, rfl⟩, ⟨rfl, rfl⟩, ⟨rfl, rfl⟩, ⟨rfl, rfl⟩, ⟨rfl, rfl⟩, ⟨rfl, rfl⟩,
      ⟨rfl, rfl⟩, ⟨rfl, rfl⟩, ⟨rfl, rfl⟩⟩

/-- Settles O32: each message is a row that is answered Not_Supported, a catch-all's included, and each class of header
reaches the rows of its own table. -/
theorem catchAllAndRemainingMessages : Obligations.CatchAllAndRemainingMessages := by
  intro f typ objs s hw
  refine ⟨typeCode_default, List.forall_iff_forall_mem.1 (List.Forall.imp
    (p := fun p => s.unsupported p.1 p.2.1 p.2.2) ?_ ?_)⟩
  · rintro ⟨i, t, k⟩ hp
    refine ⟨hp.exec_eq, fun h => ⟨?_, ?_, ?_⟩, hp.respond hw⟩
    · rintro rfl hk hz
      exact (exec_peHandleMsg_ctrl hw [] hk hz).trans (hp.receivedRow_eq _)
    · rintro rfl hk hc h1 h7
      exact (exec_peHandleMsg_data hw hk hc h1 h7).trans (hp.receivedRow_eq _)
    · rintro rfl hk hc
      exact (exec_peHandleMsg_ext hw hk hc).trans (hp.receivedRow_eq _)
  · exact ⟨⟨rfl, rfl⟩, ⟨rfl, rfl⟩, ⟨rfl, rfl⟩, ⟨rfl, rfl⟩, ⟨rfl, rfl⟩, ⟨rfl, rfl⟩, ⟨rfl, rfl⟩, ⟨rfl, rfl⟩, ⟨rfl, rfl⟩⟩

/-! ## GoodCRC (41_codec_rx.md R176) -/

theorem msgId_succ (m : BitVec 3) : m + 1 = BitVec.ofNat 3 ((m.toNat + 1) % 8) := by revert m; decide

/-- What GoodCRC leaves: the message id one on, and no event. -/
def State.goodCrcReceived (s : State) : State :=
  State.reply { s with pe := { s.pe with
    msgId := BitVec.ofNat 3 ((s.pe.msgId.toNat + 1) % 8)
    curTable := .ctrl
    curIndex := typeCode s.params .ctrl 1 } } [0]

theorem receivedRow_goodCrc (s : State) (objs : List Obj) :
    s.receivedRow .ctrl 1 objs = .next s.goodCrcReceived := by
  rw [State.goodCrcReceived, ← msgId_succ]
  exact State.received_eq PeEvents.byte_empty

/-- GoodCRC messages one after another: each takes the message id one on. -/
theorem runAll_goodCrc (fs : List RxFields) (s : State) :
    ∃ t, runAll (fs.map .rxGoodCrc) s = .next t ∧ t.pe.msgId.toNat = (s.pe.msgId.toNat + fs.length) % 8 := by
  induction fs generalizing s with
  | nil => exact ⟨s, rfl, (Nat.mod_eq_of_lt s.pe.msgId.isLt).symm⟩
  | cons f fs ih =>
    obtain ⟨u, hu, hid⟩ : ∃ u, exec (.rxGoodCrc f) s = .next u ∧ u.pe.msgId = s.pe.msgId + 1 := ⟨_, rfl, rfl⟩
    obtain ⟨t, ht, hmsg⟩ := ih u
    refine ⟨t, by rw [List.map_cons, runAll, hu]; exact ht, ?_⟩
    rw [hmsg, hid, msgId_succ, BitVec.toNat_ofNat, List.length_cons]
    omega

/-- Settles O33: GoodCRC is row 1 of the CTRL table, and its frames run that row. -/
theorem goodCrcAdvancesTheMessageId : Obligations.GoodCrcAdvancesTheMessageId := by
  refine ⟨fun f s hw => ⟨fun hdef => typeCode_default hdef .ctrl 1, receivedRow_goodCrc s [], ?_, fun h hk hz => ?_⟩,
    runAll_goodCrc⟩
  · exact exec_peRespond_row (u := s.goodCrcReceived) (t := .ctrl) (k := 1) hw rfl rfl
  · exact (exec_peHandleMsg_ctrlCode hw (by decide) [] hk hz).trans (receivedRow_goodCrc s [])

/-! ## Messages with an event or none, and no reply (41_codec_rx.md R177 to R179, R187, R191) -/

/-- Accept: the event of bit 2. -/
theorem receivedRow_accept (s : State) (objs : List Obj) :
    s.receivedRow .ctrl 3 objs = .next (s.current .ctrl 3 0x04) :=
  State.received_eq (by decide)

/-- PS_RDY: the event of bit 1. -/
theorem receivedRow_psRdy (s : State) (objs : List Obj) :
    s.receivedRow .ctrl 6 objs = .next (s.current .ctrl 6 0x02) :=
  State.received_eq (by decide)

/-- Reject under REJECT_POLICY AsPsRdy: PsRdy's event. -/
theorem receivedRow_rejectAsPsRdy {s : State} (hpolicy : s.params.rejectPolicy = .asPsRdy) (objs : List Obj) :
    s.receivedRow .ctrl 4 objs = .next (s.current .ctrl 4 0x02) :=
  calc s.receivedRow .ctrl 4 objs
      = s.received ((s.receiving .ctrl 4).rejectedBy .asPsRdy) := by rw [← hpolicy]; rfl
    _ = .next (s.current .ctrl 4 0x02) := State.received_eq (by decide)

/-- Reject under REJECT_POLICY Distinct: the event of bit 4. -/
theorem receivedRow_rejectDistinct {s : State} (hpolicy : s.params.rejectPolicy = .distinct) (objs : List Obj) :
    s.receivedRow .ctrl 4 objs = .next (s.current .ctrl 4 0x10) :=
  calc s.receivedRow .ctrl 4 objs
      = s.received ((s.receiving .ctrl 4).rejectedBy .distinct) := by rw [← hpolicy]; rfl
    _ = .next (s.current .ctrl 4 0x10) := State.received_eq (by decide)

/-- BIST: no event. -/
theorem receivedRow_bist (s : State) (objs : List Obj) :
    s.receivedRow .data 3 objs = .next (s.current .data 3 0x00) :=
  State.received_eq PeEvents.byte_empty

/-- A field of an object as a number. -/
theorem objField_eq (w : Obj) (lo width : Nat) :
    w.extractLsb' lo width = BitVec.ofNat width (w.toNat / 2 ^ lo % 2 ^ width) := by
  apply BitVec.eq_of_toNat_eq
  rw [BitVec.extractLsb'_toNat, Nat.shiftRight_eq_div_pow, BitVec.toNat_ofNat, Nat.mod_mod]

/-- What PPS_Status leaves: three fields of the first two objects, and the event of bit 3. -/
def State.ppsStatusReceived (s : State) (objs : List Obj) : State :=
  State.reply { s with pe := { s.pe with
    curTable := .ext
    curIndex := typeCode s.params .ext 12
    ppssV := BitVec.ofNat 16 ((objs.getD 0 0).toNat / 2 ^ 16)
    ppssI := BitVec.ofNat 8 ((objs.getD 1 0).toNat % 2 ^ 8)
    ppssFlags := BitVec.ofNat 8 ((objs.getD 1 0).toNat / 2 ^ 8 % 2 ^ 8) } } [0x08]

theorem receivedRow_ppsStatus (s : State) (objs : List Obj) :
    s.receivedRow .ext 12 objs = .next (s.ppsStatusReceived objs) := by
  have hv : (objs.getD 0 0).extractLsb' 16 16 = BitVec.ofNat 16 ((objs.getD 0 0).toNat / 2 ^ 16) := by
    rw [objField_eq, Nat.mod_eq_of_lt (by omega)]
  have hi : (objs.getD 1 0).extractLsb' 0 8 = BitVec.ofNat 8 ((objs.getD 1 0).toNat % 2 ^ 8) := by
    rw [objField_eq, Nat.pow_zero, Nat.div_one]
  have hflags := objField_eq (objs.getD 1 0) 8 8
  rw [State.ppsStatusReceived, ← hv, ← hi, ← hflags]
  exact State.received_eq (by decide)

/-- Settles O34: each message is a row with a handler of its own and no responder. -/
theorem messagesWithoutReply : Obligations.MessagesWithoutReply := by
  intro f objs s hw
  refine ⟨typeCode_default, receivedRow_accept s [], receivedRow_psRdy s [],
    fun hpolicy => receivedRow_rejectAsPsRdy hpolicy [], fun hpolicy => receivedRow_rejectDistinct hpolicy [],
    receivedRow_bist s objs, receivedRow_ppsStatus s objs,
    exec_peRespond_row (u := s.ppsStatusReceived objs) (t := .ext) (k := 12) hw rfl rfl, ?_,
    fun h => ⟨fun hz => ⟨fun hk => ?_, fun hk => ?_, fun hk hpolicy => ?_, fun hk hpolicy => ?_⟩,
      fun hk hc h1 h7 => ?_, fun hk hc => ?_⟩⟩
  · exact List.forall_iff_forall_mem.1 ⟨exec_peRespond_current hw .ctrl 3, exec_peRespond_current hw .ctrl 6,
      exec_peRespond_current hw .ctrl 4, exec_peRespond_current hw .data 3⟩
  · exact (exec_peHandleMsg_ctrlCode hw (by decide) [] hk hz).trans (receivedRow_accept s [])
  · exact (exec_peHandleMsg_ctrlCode hw (by decide) [] hk hz).trans (receivedRow_psRdy s [])
  · exact (exec_peHandleMsg_ctrlCode hw (by decide) [] hk hz).trans (receivedRow_rejectAsPsRdy hpolicy [])
  · exact (exec_peHandleMsg_ctrlCode hw (by decide) [] hk hz).trans (receivedRow_rejectDistinct hpolicy [])
  · exact (exec_peHandleMsg_dataCode hw (by decide) hk hc h1 h7).trans (receivedRow_bist s objs)
  · exact (exec_peHandleMsg_extCode hw (by decide) hk hc).trans (receivedRow_ppsStatus s objs)

/-! ## Messages with a reply (41_codec_rx.md R180 to R185; 42_codec_tx.md R212 to R215) -/

/-- Bytes packed into objects come out as they went in, when they fill them. -/
theorem objsBytes_packObjs {bs : List Byte} {n : Nat} (h : bs.length = 4 * n) :
    objsBytes (packObjs bs) = bs ∧ (packObjs bs).length = n := by
  induction n generalizing bs with
  | zero => rw [List.length_eq_zero_iff.1 h]; exact ⟨rfl, rfl⟩
  | succ n ih =>
    match bs, h with
    | b0 :: b1 :: b2 :: b3 :: bs, h =>
      obtain ⟨hbytes, hlen⟩ := ih (bs := bs) (by simp only [List.length_cons] at h; omega)
      exact ⟨by rw [packObjs, objsBytes, le32_ofLe32, hbytes]; rfl, by rw [packObjs, List.length_cons, hlen]⟩

theorem genExtHeader_eq (size : BitVec 9) : genExtHeader size = BitVec.ofNat 16 (0x8000 + size.toNat) := by
  apply BitVec.eq_of_toNat_eq
  rw [genExtHeader_toNat, BitVec.toNat_ofNat]
  omega

/-- BUILD_SINK_CAP_EXT in bytes: the block fills the objects after the extended header (R213). -/
theorem buildSinkCapExt_bytes (pe : Pe) {p : Params} (hlen : p.sinkCapExtBlock.length = 22) :
    (pe.buildSinkCapExt p).bytes
      = le16 (BitVec.ofNat 16 (0xE080 + (typeCode p .ext 15).toNat + pe.msgId.toNat * 2 ^ 9))
        ++ le16 (BitVec.ofNat 16 (0x8000 + p.sinkCapExtSize.toNat)) ++ p.sinkCapExtBlock := by
  obtain ⟨hbytes, hcount⟩ := objsBytes_packObjs (n := 6)
    (bs := le16 (genExtHeader p.sinkCapExtSize) ++ p.sinkCapExtBlock) (by rw [List.length_append, hlen]; rfl)
  rw [Frame.bytes, Pe.buildSinkCapExt, present_eq hcount, hbytes, Pe.header_eq, genExtHeader_eq, List.append_assoc]
  rfl

theorem buildSinkCap_bytes (pe : Pe) (p : Params) :
    (pe.buildSinkCap p).bytes
      = le16 (BitVec.ofNat 16 (0x1080 + (typeCode p .data 4).toNat + pe.msgId.toNat * 2 ^ 9))
        ++ [0x64, 0x90, 0x01, 0x00] := by
  rw [Frame.bytes, Pe.buildSinkCap, Pe.header_eq]
  rfl

/-- The control messages that the block answers have no handler. -/
theorem answeredRows_noHandler :
    ∀ k ∈ ([8, 9, 10, 11, 13, 22] : List (BitVec 5)), handlerOf .ctrl k = none ∧ k.toNat ≤ lastIndex .ctrl := by
  decide

/-- Settles O35: each message is a row of the CTRL table with no handler and a responder of its own. -/
theorem messagesWithReply : Obligations.MessagesWithReply := by
  intro f s hw
  have hplain := s.receivedPlain_eq .ctrl
  have hreject := ctrlFrame_bytes s.pe s.params 4
  refine ⟨typeCode_default,
    ⟨hplain 8, exec_peRespond_reply hw rfl (buildSinkCap_bytes s.pe s.params)⟩,
    ⟨hplain 9, exec_peRespond_reply hw rfl hreject⟩, ⟨hplain 10, exec_peRespond_reply hw rfl hreject⟩,
    ⟨hplain 11, exec_peRespond_reply hw rfl hreject⟩,
    ⟨hplain 13, exec_peRespond_reply hw rfl (ctrlFrame_bytes s.pe s.params 3)⟩,
    hplain 22, fun hlen => exec_peRespond_reply hw rfl (buildSinkCapExt_bytes s.pe hlen),
    fun k hk h htype hz => ?_⟩
  obtain ⟨hhandler, hle⟩ := answeredRows_noHandler k hk
  exact (exec_peHandleMsg_ctrlCode hw hle [] htype hz).trans (receivedRow_noHandler (.inl hhandler) s [])

/-! ## Source_Capabilities (41_codec_rx.md R174, R186) -/

/-- What Source_Capabilities leaves: the list stored and evaluated, and the event of bit 0. -/
def State.sourceCapReceived (s : State) (objs : List Obj) : State :=
  State.reply { s with pe := ((s.receiving .data 1).sourceCap s.params objs).2 } [0x01]

theorem receivedRow_sourceCap (s : State) (objs : List Obj) :
    s.receivedRow .data 1 objs = .next (s.sourceCapReceived objs) :=
  State.received_eq (by decide)

/-- The stored list's count is the number of objects (10_state.md R33). -/
theorem Pe.withSource_pdoCount_toNat (pe : Pe) {objs : List Obj} (h7 : objs.length ≤ 7) :
    (pe.withSource objs).pdoCount.toNat = objs.length := by
  rw [Pe.withSource_pdoCount, BitVec.toNat_ofNat, Nat.mod_eq_of_lt (by omega)]

/-- What the evaluator answers on a stored list is one of its indices. -/
theorem Pe.evaluate_withSource_lt (pe : Pe) (p : Params) (v : Half) (i : Byte) {objs : List Obj} (h1 : 1 ≤ objs.length)
    (h7 : objs.length ≤ 7) : ((pe.withSource objs).evaluate p v i).2 < objs.length := by
  have hcount := pe.withSource_pdoCount_toNat h7
  rw [← hcount]
  exact Pe.evaluate_lt _ p v i (by omega)

/-- Settles O36: row 1 of the DATA table. The state with the list stored stands between; the evaluator's index on it is
an index of the list, so that neither SELECTED nor the answer's byte cuts it. -/
theorem sourceCapabilitiesRule : Obligations.SourceCapabilitiesRule := by
  intro f objs s hw h1 h7
  have hlt := (s.receiving .data 1).evaluate_withSource_lt s.params s.pe.ppsV s.pe.ppsI h1 h7
  have hsel := BitVec.toNat_ofNat (((s.receiving .data 1).withSource objs).evaluate s.params s.pe.ppsV s.pe.ppsI).2 3
  have hbyte := BitVec.toNat_ofNat (((s.receiving .data 1).withSource objs).evaluate s.params s.pe.ppsV s.pe.ppsI).2 8
  rw [Nat.mod_eq_of_lt (by omega)] at hsel hbyte
  refine ⟨fun hdef => typeCode_default hdef .data 1, { s with pe := (s.receiving .data 1).withSource objs }, _, _,
    s.sourceCapReceived objs, rfl, Pe.withSource_pdoCount_toNat _ h7, rfl,
    fun i hi => by rw [Pe.withSource_srcPdo, Objs7.ofList_get, if_pos hi], rfl, rfl, hsel.trans hbyte.symm,
    hbyte.trans_lt hlt, receivedRow_sourceCap s objs,
    fun h hk hc => ?_, _, rfl, exec_peRespond_row (u := s.sourceCapReceived objs) (t := .data) (k := 1) hw rfl rfl⟩
  exact (exec_peHandleMsg_dataCode hw (by decide) hk hc h1 h7).trans (receivedRow_sourceCap s objs)

end Sys2Proof.Machine

/-! PROOFS. PE's transmit side (spec/42_codec_tx.md): the built messages in bytes, how they read back, and PE_RESPOND's
table (O39, O40, O37). -/

namespace Sys2Proof

open Sys2Proof.Config

/-! ## Built headers read back (42_codec_tx.md R222; 30_encoding.md R91) -/

theorem withType_rxHeader (a b : BitVec 5) (f : RxFields) (count : BitVec 3) (ext : BitVec 1) :
    withType (rxHeader a f count ext) b = rxHeader b f count ext := by
  have ha := a.isLt
  apply BitVec.eq_of_toNat_eq
  rw [withType_toNat, rxHeader_toNat, rxHeader_toNat]
  omega

/-- The received message of a header by the header's fields (30_encoding.md R91). -/
theorem rxInstr_rxHeader (typ : BitVec 5) (f : RxFields) (count : BitVec 3) (ext : BitVec 1) (objs : List Obj) :
    rxInstr (rxHeader typ f count ext) objs
      = if ext = 1 then extInstr typ f objs else if count.toNat = 0 then ctrlInstr typ f else dataInstr typ f objs := by
  rw [rxInstr, rxHeader_ext, rxHeader_count, rxHeader_typ, rxHeader_fields]

/-- What follows a transmitted header plays no part in reading it. -/
theorem decode_tx_append (h : Half) (rest : List Byte) : decode .tx (le16 h ++ rest) = decode .tx (le16 h) := rfl

end Sys2Proof

namespace Sys2Proof.Machine

open Sys2Proof.Config

/-- A built header is a received one with revision 2, the present MSG_ID, and bits 5 and 8 zero (R211). -/
theorem Pe.header_eq_rxHeader (pe : Pe) (p : Params) (t : Table) (row : BitVec 5) (count : BitVec 3) (ext : BitVec 1) :
    pe.header p t row count ext = rxHeader (typeCode p t row) ⟨2, pe.msgId, 0, 0⟩ count ext :=
  genHeader_eq_rxHeader ..

/-- Under the machine's codes a built header stands for the table's header of the same row, provided that it was built
with the codes of the table that its own count and extended bit select. -/
theorem Pe.toTableCode_header (pe : Pe) {p : Params} (hw : p.codes.wf = true) (row : BitVec 5) (count : BitVec 3)
    (ext : BitVec 1) :
    toTableCode p.codes (pe.header p (tableOf ext count.toNat) row count ext)
      = rxHeader row ⟨2, pe.msgId, 0, 0⟩ count ext := by
  have hrow := codeRow_typeCode hw (tableOf ext count.toNat) row
  rw [codeRow] at hrow
  rw [toTableCode, ← tableCodes_tableOf, Pe.header_eq_rxHeader, rxHeader_ext, rxHeader_count, rxHeader_typ, hrow,
    withType_rxHeader]

/-- The message the first instruction builds decodes as the transmitted message that stands second and, on its objects,
as the received message that stands third. -/
def State.dispatches (s : State) (p : Instr × Instr × (List Obj → Instr)) : Prop :=
  ∃ t objs, exec p.1 s = .next t ∧ decodeAt s.params.codes .tx t.port.reply = .instr p.2.1 ∧
    decodeAt s.params.codes .rx t.port.reply = .instr (p.2.2 objs) ∧
    ∃ h, t.port.reply = le16 h ++ objsBytes objs ∧ objs.length = h.toNat / 2 ^ 12 % 8

/-- A built message dispatches to the messages that the table's own header of its row decodes as: translating the type
code back leaves just that header and the same objects. -/
theorem State.dispatches_of_built {s : State} (hw : s.params.codes.wf = true) {i j : Instr} {k : List Obj → Instr}
    (row : BitVec 5) (count : BitVec 3) (ext : BitVec 1) {objs : List Obj} (hlen : objs.length = count.toNat)
    (hexec : exec i s
      = .next (s.reply (Frame.bytes ⟨s.pe.header s.params (tableOf ext count.toNat) row count ext, objs⟩)))
    (htx : decode .tx (le16 (genHeader row 2 s.pe.msgId count ext)) = .instr j)
    (hrx : (if ext = 1 then extInstr row ⟨2, s.pe.msgId, 0, 0⟩ objs
      else if count.toNat = 0 then ctrlInstr row ⟨2, s.pe.msgId, 0, 0⟩
      else dataInstr row ⟨2, s.pe.msgId, 0, 0⟩ objs) = k objs) :
    s.dispatches (i, j, k) := by
  have hhead := s.pe.toTableCode_header hw row count ext
  refine ⟨_, objs, hexec, ?_, ?_, _, rfl, ?_⟩
  · calc decodeAt s.params.codes .tx
          (Frame.bytes ⟨s.pe.header s.params (tableOf ext count.toNat) row count ext, objs⟩)
        = decode .tx (le16 (rxHeader row ⟨2, s.pe.msgId, 0, 0⟩ count ext)) := by
          rw [decodeAt, Frame.bytes, mapHeader_le16, hhead, decode_tx_append]
      _ = .instr j := by rw [← genHeader_eq_rxHeader, htx]
  · calc decodeAt s.params.codes .rx
          (Frame.bytes ⟨s.pe.header s.params (tableOf ext count.toNat) row count ext, objs⟩)
        = .instr (rxInstr (rxHeader row ⟨2, s.pe.msgId, 0, 0⟩ count ext) objs) := by
          rw [decodeAt, Frame.bytes, mapHeader_le16, hhead, decodeRx_bytes _ _ (by rw [rxHeader_count, hlen])]
      _ = .instr (k objs) := by rw [rxInstr_rxHeader, hrx]
  · rw [← objectCount_eq, Pe.header_eq_rxHeader, rxHeader_count, hlen]

/-- Settles O39: each builder writes the header of its row with the codes of the table its header selects
(`State.dispatches_of_built`); the table's own header decodes by the round trip of the transmitted message. -/
theorem builtMessagesDispatchToTheirOwnNames : Obligations.BuiltMessagesDispatchToTheirOwnNames := by
  intro id s hw f
  exact (List.forall_iff_forall_mem (p := s.dispatches)).1
    ⟨State.dispatches_of_built hw 3 0 0 rfl rfl (Laws.RoundTrip.txAccept _ rfl) rfl,
      State.dispatches_of_built hw 4 0 0 rfl rfl (Laws.RoundTrip.txReject _ rfl) rfl,
      State.dispatches_of_built hw 7 0 0 rfl rfl (Laws.RoundTrip.txGetSourceCap _ rfl) rfl,
      State.dispatches_of_built hw 16 0 0 rfl rfl (Laws.RoundTrip.txNotSupported _ rfl) rfl,
      State.dispatches_of_built hw 20 0 0 rfl rfl (Laws.RoundTrip.txGetPpsStatus _ rfl) rfl,
      State.dispatches_of_built hw 2 1 0 rfl rfl (Laws.RoundTrip.txRequest _ rfl) rfl,
      State.dispatches_of_built hw 4 1 0 rfl rfl (Laws.RoundTrip.txSinkCapabilities _ rfl) rfl,
      State.dispatches_of_built hw 15 6 1 (present_length 6 _) rfl
        (Laws.RoundTrip.txSinkCapabilitiesExtended _ rfl) rfl⟩

/-! ## The built messages in bytes (42_codec_tx.md R211 to R219) -/

theorem buildRequest_bytes (pe : Pe) (p : Params) :
    (pe.buildRequest p).bytes
      = le16 (BitVec.ofNat 16 (0x1080 + (typeCode p .data 2).toNat + pe.msgId.toNat * 2 ^ 9))
        ++ le32 pe.requestObject := by
  rw [Frame.bytes, Pe.buildRequest, Pe.header_eq, objsBytes, objsBytes, List.append_nil]
  rfl

/-- A builder's answer, its message in bytes. -/
theorem exec_built {i : Instr} {s : State} {frame : Frame} {bs : List Byte}
    (hexec : exec i s = .next (s.reply frame.bytes)) (hbytes : frame.bytes = bs) : exec i s = .next (s.reply bs) :=
  hbytes ▸ hexec

/-- Settles O37: each instruction answers its builder's message, which names the header and the objects. -/
theorem builtMessages : Obligations.BuiltMessages := by
  intro id s
  have hctrl := ctrlFrame_bytes s.pe s.params
  have hrequest := buildRequest_bytes s.pe s.params
  exact ⟨typeCode_default, exec_built rfl (hctrl 3), exec_built rfl (hctrl 4), exec_built rfl (hctrl 7),
    exec_built rfl (hctrl 16), exec_built rfl (hctrl 20), exec_built rfl (buildSinkCap_bytes s.pe s.params),
    fun hlen => exec_built rfl (buildSinkCapExt_bytes s.pe hlen), exec_built rfl (hctrl 7), exec_built rfl (hctrl 20),
    s.pe.requestObject, exec_built rfl hrequest, exec_built rfl hrequest⟩

/-! ## PE_RESPOND's table (42_codec_tx.md R210, R221) -/

/-- The transmitted message that a responder builds (R221). -/
def Responder.instr : Responder → Instr
  | .sinkCap => .txSinkCapabilities 0
  | .sinkCapExt => .txSinkCapabilitiesExtended 0
  | .reject => .txReject 0
  | .accept => .txAccept 0
  | .notSupported => .txNotSupported 0
  | .request => .txRequest 0

theorem exec_responderInstr (r : Responder) (s : State) :
    exec r.instr s = .next (s.reply (s.pe.runResponder s.params r).bytes) := by
  cases r <;> rfl

/-- With a responder in the current row, PE_RESPOND answers true and what the responder's instruction answers. -/
theorem exec_peRespond_responder {s : State} (hw : s.params.codes.wf = true) {row : BitVec 5}
    (hcode : s.pe.curIndex = typeCode s.params s.pe.curTable row) {r : Responder}
    (hr : responderOf s.pe.curTable row = some r) :
    ∃ bs, exec r.instr s = .next (s.reply bs) ∧ exec .peRespond s = .next (s.reply (1 :: bs)) := by
  refine ⟨_, exec_responderInstr r s, ?_⟩
  rw [exec_peRespond_row hw rfl hcode, hr]
  rfl

/-- The entries PE_RESPOND has no message for: none current, GoodCRC, Accept, Reject, PS_RDY, BIST and PPS_Status. -/
def silentEntry (t : Table) (k : Nat) : Prop :=
  t = .none ∨ t = .ctrl ∧ k ∈ [1, 3, 4, 6] ∨ t = .data ∧ k = 3 ∨ t = .ext ∧ k = 12

theorem responderOf_eq_none_iff {t : Table} {k : BitVec 5} : responderOf t k = none ↔ silentEntry t k.toNat := by
  unfold silentEntry
  cases t <;> revert k <;> decide

theorem responderOf_ctrl_reject {k : BitVec 5} (h : k.toNat ∈ [9, 10, 11]) : responderOf .ctrl k = some .reject := by
  revert k; decide

/-- Every entry with no responder of its own and not silent is answered Not_Supported (30_encoding.md R94). -/
theorem responderOf_notSupported {t : Table} {k : BitVec 5} (hloud : ¬ silentEntry t k.toNat)
    (hctrl : t = .ctrl → k.toNat ∉ [8, 9, 10, 11, 13, 22]) (hdata : t = .data → k.toNat ≠ 1) :
    responderOf t k = some .notSupported := by
  unfold silentEntry at hloud
  cases t <;> revert k <;> decide

/-- Settles O40: the entry's row is the one of CUR_INDEX's code; its responder, read off the table, is what PE_RESPOND
runs (`exec_peRespond_row`). An index above the table's last has a row, too, so the legality of the current entry is
not used. -/
theorem respondFollowsTheTable : Obligations.RespondFollowsTheTable := by
  intro s hw _
  have hcode := (typeCode_codeRow hw s.pe.curTable s.pe.curIndex).symm
  refine ⟨_, hcode, fun hdef => (typeCode_default hdef _ _).symm.trans hcode.symm, ?_⟩
  generalize codeRow s.params s.pe.curTable s.pe.curIndex = row at hcode
  have hrow : ∀ (t : Table) (n : BitVec 5), s.pe.curTable = t → row.toNat = n.toNat →
      responderOf s.pe.curTable row = responderOf t n := fun t n ht hk => by rw [ht, BitVec.eq_of_toNat_eq hk]
  refine ⟨fun hsilent => ?_, fun ht hk => ?_, fun ht hk => ?_, fun ht hk => ?_, fun ht hk => ?_, fun ht hk => ?_,
    fun hloud hc hd => ?_⟩
  · rw [exec_peRespond_row hw rfl hcode, responderOf_eq_none_iff.2 hsilent]
    rfl
  · exact exec_peRespond_responder hw hcode (r := .sinkCap) (hrow .ctrl 8 ht hk)
  · exact exec_peRespond_responder hw hcode (r := .sinkCapExt) (hrow .ctrl 22 ht hk)
  · exact exec_peRespond_responder hw hcode (r := .reject) (by rw [ht, responderOf_ctrl_reject hk])
  · exact exec_peRespond_responder hw hcode (r := .accept) (hrow .ctrl 13 ht hk)
  · exact exec_peRespond_responder hw hcode (r := .request) (hrow .data 1 ht hk)
  · exact exec_peRespond_responder hw hcode (r := .notSupported) (responderOf_notSupported hloud hc hd)

end Sys2Proof.Machine

/-! PROOFS. PE's negotiation (spec/43_negotiation.md): capabilities in numbers, the evaluator, the target operations, the
accessors and the two resets (O41 to O46). -/

namespace Sys2Proof.Machine

open Sys2Proof.Config

/-! ## Capabilities in numbers (30_encoding.md R100 to R104) -/

theorem field_eq (w : Obj) (lo width : Nat) : field w lo width = w.toNat / 2 ^ lo % 2 ^ width := by
  rw [field, BitVec.extractLsb'_toNat, Nat.shiftRight_eq_div_pow]

/-- The type of a capability is the number of its bits [31:30]. -/
theorem capabilityType_cases (w : Obj) :
    w.toNat / 2 ^ 30 = 0 ∨ w.toNat / 2 ^ 30 = 1 ∨ w.toNat / 2 ^ 30 = 2 ∨ w.toNat / 2 ^ 30 = 3 := by
  have hlt := w.isLt
  omega

theorem field_type (w : Obj) : field w 30 2 = w.toNat / 2 ^ 30 := by
  have hlt := w.isLt
  rw [field_eq]
  omega

theorem pdoInfo_fixed {w : Obj} (h : w.toNat / 2 ^ 30 = 0) :
    pdoInfo w = ⟨.fixed, 0, w.toNat / 2 ^ 10 % 2 ^ 10, w.toNat % 2 ^ 10, 0⟩ := by
  rw [pdoInfo, pdoType, field_type, h]
  simp only [field_eq, Nat.pow_zero, Nat.div_one]

theorem pdoInfo_battery {w : Obj} (h : w.toNat / 2 ^ 30 = 1) :
    pdoInfo w = ⟨.battery, w.toNat / 2 ^ 10 % 2 ^ 10, w.toNat / 2 ^ 20 % 2 ^ 10, 0, w.toNat % 2 ^ 10⟩ := by
  rw [pdoInfo, pdoType, field_type, h]
  simp only [field_eq, Nat.pow_zero, Nat.div_one]

theorem pdoInfo_variable {w : Obj} (h : w.toNat / 2 ^ 30 = 2) :
    pdoInfo w = ⟨.variable, w.toNat / 2 ^ 10 % 2 ^ 10, w.toNat / 2 ^ 20 % 2 ^ 10, w.toNat % 2 ^ 10, 0⟩ := by
  rw [pdoInfo, pdoType, field_type, h]
  simp only [field_eq, Nat.pow_zero, Nat.div_one]

theorem pdoInfo_augmented {w : Obj} (h : w.toNat / 2 ^ 30 = 3) :
    pdoInfo w = ⟨.augmented, w.toNat / 2 ^ 8 % 2 ^ 8, w.toNat / 2 ^ 17 % 2 ^ 8, w.toNat % 2 ^ 7, 0⟩ := by
  rw [pdoInfo, pdoType, field_type, h]
  simp only [field_eq, Nat.pow_zero, Nat.div_one]

/-! ## The view of a capability (43_negotiation.md R249) -/

theorem exec_peGetPowerInfo_live {s : State} {k : Byte} (h : k.toNat < s.pe.pdoCount.toNat) :
    exec (.peGetPowerInfo k) s = .next (s.reply (powerInfoBytes (some (pdoInfo (s.pe.srcPdo.get k.toNat))))) := by
  show execPeGetPowerInfo k s = _
  rw [execPeGetPowerInfo, Pe.powerInfo, if_pos h]

theorem exec_peGetPowerInfo_outside {s : State} {k : Byte} (h : s.pe.pdoCount.toNat ≤ k.toNat) :
    exec (.peGetPowerInfo k) s = .next (s.reply (powerInfoBytes none)) := by
  show execPeGetPowerInfo k s = _
  rw [execPeGetPowerInfo, Pe.powerInfo, if_neg (Nat.not_lt.2 h)]

/-- Settles O42: the command answers the decoded capability, and each type's layout is the one its top two bits name. -/
theorem powerInfoRule : Obligations.PowerInfoRule := by
  intro s k
  refine ⟨exec_peGetPowerInfo_outside, fun hlive => ?_⟩
  rw [exec_peGetPowerInfo_live hlive]
  refine ⟨fun h => ?_, fun h => ?_, fun h => ?_, fun h => ?_⟩
  · rw [pdoInfo_fixed h]; rfl
  · rw [pdoInfo_battery h]; rfl
  · rw [pdoInfo_variable h]; rfl
  · rw [pdoInfo_augmented h]; rfl

/-! ## The accessors and the resets (R250 to R253, R257) -/

/-- Settles O46: the resets are their registers' values written out, and an accessor answers its registers byte by byte,
the lowest first (`le16_eq`). -/
theorem peResetsAndAccessors : Obligations.PeResetsAndAccessors := by
  intro s
  refine ⟨rfl, rfl, ?_, ?_, ?_⟩
  · show execPeGetSelected s = _
    rw [execPeGetSelected, BitVec.ofNat_toNat]
  · show execPeGetPpsStatus s = _
    rw [execPeGetPpsStatus, le16_eq]
    rfl
  · show execPeGetTarget s = _
    rw [execPeGetTarget, le16_eq, BitVec.ofNat_toNat 8 s.pe.powerOption]
    rfl

/-! ## The evaluator (R242 to R244, R254) -/

/-- Capability k is live and brackets the target (R244). -/
def Pe.fits (pe : Pe) (v : Half) (i : Byte) (k : Nat) : Prop :=
  k < pe.pdoCount.toNat ∧ brackets v.toNat i.toNat (pdoInfo (pe.srcPdo.get k)) = true

/-- Capability k is live and within the limit of a power-option row (R243). -/
def Pe.within (pe : Pe) (row : PowerRow) (k : Nat) : Prop :=
  k < pe.pdoCount.toNat ∧ withinLimit row (pdoInfo (pe.srcPdo.get k)) = true

/-- Only an Augmented capability brackets a target, at both ends of its voltages and up to its current. -/
theorem brackets_pdoInfo_iff {v i : Nat} {w : Obj} : brackets v i (pdoInfo w) = true ↔
    w.toNat / 2 ^ 30 = 3 ∧ 5 * (w.toNat / 2 ^ 8 % 2 ^ 8) ≤ v ∧ v ≤ 5 * (w.toNat / 2 ^ 17 % 2 ^ 8) ∧
      i ≤ w.toNat % 2 ^ 7 := by
  rcases capabilityType_cases w with h | h | h | h
  · rw [pdoInfo_fixed h, h]; simp [brackets]
  · rw [pdoInfo_battery h, h]; simp [brackets]
  · rw [pdoInfo_variable h, h]; simp [brackets]
  · rw [pdoInfo_augmented h, h]; simp [brackets, and_assoc]

/-- The greatest voltage of a capability that is not Augmented, from its word (R101 to R103). -/
def wordMaxV (w : Nat) : Nat := if w / 2 ^ 30 = 0 then w / 2 ^ 10 % 2 ^ 10 else w / 2 ^ 20 % 2 ^ 10

/-- The greatest current of a capability that is not Augmented, from its word; a battery's is none (R101 to R103). -/
def wordMaxI (w : Nat) : Nat := if w / 2 ^ 30 = 1 then 0 else w % 2 ^ 10

/-- Only a capability that is not Augmented is within a limit, by the measure of its word. -/
theorem withinLimit_pdoInfo_iff {row : PowerRow} {w : Obj} : withinLimit row (pdoInfo w) = true ↔
    w.toNat / 2 ^ 30 ≠ 3 ∧
      (if row.useV then wordMaxV w.toNat / 4 else 1) * (if row.useI then wordMaxI w.toNat / 4 else 1) ≤ row.limit := by
  rcases capabilityType_cases w with h | h | h | h
  · rw [pdoInfo_fixed h, wordMaxV, wordMaxI, h]; simp [withinLimit, powerMetric]
  · rw [pdoInfo_battery h, wordMaxV, wordMaxI, h]; simp [withinLimit, powerMetric]
  · rw [pdoInfo_variable h, wordMaxV, wordMaxI, h]; simp [withinLimit, powerMetric]
  · rw [pdoInfo_augmented h, h]; simp [withinLimit]

/-- Everything the first pass can do, in terms of the registers: an index that fits and is the lowest, or no index fits. -/
theorem Pe.firstBracketing_cases (pe : Pe) (v : Half) (i : Byte) :
    (∃ n, firstBracketing v.toNat i.toNat 0 pe.live = some n ∧ pe.fits v i n ∧ ∀ k, pe.fits v i k → n ≤ k) ∨
      firstBracketing v.toNat i.toNat 0 pe.live = none ∧ ∀ k, ¬ pe.fits v i k := by
  cases hpass : firstBracketing v.toNat i.toNat 0 pe.live with
  | none =>
    refine .inr ⟨rfl, fun k ⟨hk, hfit⟩ => ?_⟩
    have hno := firstBracketing_none hpass k (by rwa [pe.live_length])
    rw [pe.live_getD hk, hfit] at hno
    cases hno
  | some n =>
    obtain ⟨m, rfl, hm, hfit, hlow⟩ := firstBracketing_some hpass
    rw [pe.live_length] at hm
    rw [pe.live_getD hm] at hfit
    rw [Nat.zero_add]
    refine .inl ⟨m, rfl, ⟨hm, hfit⟩, fun k ⟨hk, hfitk⟩ => Nat.le_of_not_lt fun hlt => ?_⟩
    have hno := hlow k hlt
    rw [pe.live_getD hk, hfitk] at hno
    cases hno

/-- Everything the second pass can do, in terms of the registers: the highest index within the limit, or 0 where none
is. -/
theorem Pe.lastWithin_cases (pe : Pe) (row : PowerRow) :
    (pe.within row (lastWithin row 0 0 pe.live) ∧ ∀ k, pe.within row k → k ≤ lastWithin row 0 0 pe.live) ∨
      lastWithin row 0 0 pe.live = 0 ∧ ∀ k, ¬ pe.within row k := by
  rcases Machine.lastWithin_cases row 0 0 pe.live with ⟨hpass, hnone⟩ | ⟨m, hpass, hm, hwithin, hhigh⟩
  · refine .inr ⟨hpass, fun k ⟨hk, hwithin⟩ => ?_⟩
    have hno := hnone k (by rwa [pe.live_length])
    rw [pe.live_getD hk, hwithin] at hno
    cases hno
  · rw [pe.live_length] at hm hhigh
    rw [pe.live_getD hm] at hwithin
    rw [hpass, Nat.zero_add]
    refine .inl ⟨⟨hm, hwithin⟩, fun k ⟨hk, hwithink⟩ => Nat.le_of_not_lt fun hlt => ?_⟩
    have hno := hhigh k hlt hk
    rw [pe.live_getD hk, hwithink] at hno
    cases hno

/-- Everything the evaluator can answer: the lowest index that fits a target with V ≠ 0; or, where there is none, that
nothing qualifies, with the highest index within the option's limit or 0. -/
theorem Pe.evaluate_cases (pe : Pe) (p : Params) (v : Half) (i : Byte) :
    (∃ n, pe.evaluate p v i = (true, n) ∧ v ≠ 0 ∧ pe.fits v i n ∧ ∀ k, pe.fits v i k → n ≤ k) ∨
    ∃ n, pe.evaluate p v i = (false, n) ∧ (v ≠ 0 → ∀ k, ¬ pe.fits v i k) ∧
      (pe.within (optionRow p pe.powerOption) n ∧ (∀ k, pe.within (optionRow p pe.powerOption) k → k ≤ n) ∨
        n = 0 ∧ ∀ k, ¬ pe.within (optionRow p pe.powerOption) k) := by
  have hsecond := pe.lastWithin_cases (optionRow p pe.powerOption)
  by_cases hv : v = 0
  · exact .inr ⟨_, by rw [Pe.evaluate, if_pos hv], fun h => absurd hv h, hsecond⟩
  · rcases pe.firstBracketing_cases v i with ⟨n, hpass, hfirst⟩ | ⟨hpass, hnone⟩
    · exact .inl ⟨n, by rw [Pe.evaluate, if_neg hv, hpass], hv, hfirst⟩
    · exact .inr ⟨_, by rw [Pe.evaluate, if_neg hv, hpass], fun _ => hnone, hsecond⟩

theorem exec_peEvaluate (v : Half) (i : Byte) (s : State) :
    exec (.peEvaluate v i) s = .next (s.reply
      [if (s.pe.evaluate s.params v i).1 then 1 else 0, BitVec.ofNat 8 (s.pe.evaluate s.params v i).2]) := by
  show execPeEvaluate v i s = _
  rw [execPeEvaluate, boolByte_eq]

/-- The evaluator's index fits a byte. -/
theorem Pe.evaluate_toNat (pe : Pe) (p : Params) (v : Half) (i : Byte) :
    (BitVec.ofNat 8 (pe.evaluate p v i).2).toNat = (pe.evaluate p v i).2 := by
  have h8 := pe.pdoCount.isLt
  rw [BitVec.toNat_ofNat, Nat.mod_eq_of_lt]
  by_cases h0 : pe.pdoCount = 0
  · rw [pe.evaluate_empty p v i h0]; decide
  · have hlt := pe.evaluate_lt p v i fun h => h0 (BitVec.eq_of_toNat_eq h)
    omega

theorem optionRow_eq {p : Params} {o : BitVec 3} {row : PowerRow} (h : p.powerOptions[o.toNat]? = some row) :
    optionRow p o = row := by
  rw [optionRow, List.getD_eq_getElem?_getD, h, Option.getD_some]

/-- Settles O41: the two passes of `Pe.evaluate_cases`, their conditions read off the capabilities' words
(`brackets_pdoInfo_iff`, `withinLimit_pdoInfo_iff`). -/
theorem evaluatorProperties : Obligations.EvaluatorProperties := by
  refine ⟨rfl, fun s v i => ⟨_, _, exec_peEvaluate v i s, ?_⟩⟩
  simp only [s.pe.evaluate_toNat, ← brackets_pdoInfo_iff]
  refine ⟨fun h0 => ?_, s.pe.evaluate_lt s.params v i, ?_⟩
  · rw [s.pe.evaluate_empty s.params v i (BitVec.eq_of_toNat_eq h0)]; rfl
  rcases s.pe.evaluate_cases s.params v i with ⟨n, heval, hv, hfit, hlow⟩ | ⟨n, heval, hnone, hlimit⟩
  · rw [heval]
    exact ⟨fun _ _ => rfl, fun _ => ⟨hv, hfit, hlow⟩, fun _ _ => ⟨(nomatch ·), (nomatch ·)⟩⟩
  · rw [heval]
    refine ⟨fun hv ⟨k, hk⟩ => absurd hk (hnone hv k), (nomatch ·), fun row hrow => ?_⟩
    simp only [optionRow_eq hrow, Pe.within, withinLimit_pdoInfo_iff] at hlimit
    rcases hlimit with ⟨hwithin, hhigh⟩ | ⟨h0, hno⟩
    · exact ⟨fun _ _ => ⟨hwithin, hhigh⟩, fun _ h => absurd ⟨n, hwithin⟩ h⟩
    · exact ⟨fun _ ⟨k, hk⟩ => absurd hk (hno k), fun _ _ => congrArg (BitVec.ofNat 8) h0⟩

/-! ## "Changed": the Request is another one (R241) -/

theorem requestChanged_self (pe : Pe) : requestChanged pe pe = false := bne_self_eq_false _

theorem le32_inj {a b : Obj} (h : le32 a = le32 b) : a = b := by
  simp only [le32, List.cons.injEq, and_true] at h
  obtain ⟨h0, h1, h2, h3⟩ := h
  rw [← ofLe32_le32 a, h0, h1, h2, h3, ofLe32_le32]

/-- Under one MSG_ID the Request differs exactly where its object does: the header is the same (R211, R217). -/
theorem buildRequest_bytes_eq_iff {pe q : Pe} (hid : q.msgId = pe.msgId) (p : Params) :
    (pe.buildRequest p).bytes = (q.buildRequest p).bytes ↔ pe.requestObject = q.requestObject := by
  rw [buildRequest_bytes, buildRequest_bytes, hid, List.append_cancel_left_eq]
  exact ⟨le32_inj, congrArg le32⟩

/-- The answer of a target operation: 1 exactly where PE_CREATE_REQUEST answers differently after than before. -/
theorem boolByte_requestChanged {pe q : Pe} (hid : q.msgId = pe.msgId) (p : Params) :
    boolByte (requestChanged pe q) = if (pe.buildRequest p).bytes = (q.buildRequest p).bytes then 0 else 1 := by
  rw [requestChanged]
  by_cases hobject : pe.requestObject = q.requestObject
  · rw [if_pos ((buildRequest_bytes_eq_iff hid p).2 hobject), hobject, bne_self_eq_false]
    rfl
  · rw [if_neg (mt (buildRequest_bytes_eq_iff hid p).1 hobject), bne_iff_ne.2 (Ne.symm hobject)]
    rfl

/-! ## The target operations (R246 to R248) -/

/-- PE with an option as the whole target and the index that the evaluator answers for it. -/
def Pe.storedOption (pe : Pe) (p : Params) (o : Byte) : Pe :=
  { pe.withOption o with selected := BitVec.ofNat 3 ((pe.withOption o).evaluate p 0 0).2 }

/-- PE with a PPS target and the index that the evaluator answers for it. -/
def Pe.storedPps (pe : Pe) (p : Params) (v : Half) (i : Byte) : Pe :=
  { pe with ppsV := v, ppsI := i, selected := BitVec.ofNat 3 (pe.evaluate p v i).2 }

/-- PE with another selection. -/
def Pe.storedIndex (pe : Pe) (k : Byte) : Pe := { pe with selected := BitVec.ofNat 3 k.toNat }

theorem Pe.setPowerOption_eq (pe : Pe) (p : Params) (o : Byte) :
    pe.setPowerOption p o = (requestChanged pe (pe.storedOption p o), pe.storedOption p o) := rfl

/-- A strict target that nothing satisfies is refused. -/
theorem Pe.setPps_refused {pe : Pe} {p : Params} {v : Half} {i : Byte} {strict : Bool}
    (h : strict = true ∧ (pe.evaluate p v i).1 = false) : pe.setPps p v i strict = (false, pe) :=
  if_pos h

theorem Pe.setPps_stored {pe : Pe} {p : Params} {v : Half} {i : Byte} {strict : Bool}
    (h : ¬ (strict = true ∧ (pe.evaluate p v i).1 = false)) :
    pe.setPps p v i strict = (requestChanged pe (pe.storedPps p v i), pe.storedPps p v i) :=
  if_neg h

theorem Pe.selectPower_refused {pe : Pe} {k : Byte} (h : pe.pdoCount.toNat ≤ k.toNat) :
    pe.selectPower k = (false, pe) := if_pos h

theorem Pe.selectPower_stored {pe : Pe} {k : Byte} (h : ¬ pe.pdoCount.toNat ≤ k.toNat) :
    pe.selectPower k = (requestChanged pe (pe.storedIndex k), pe.storedIndex k) := if_neg h

/-- PE after a target operation, and the byte that says whether the Request is another one. -/
def State.retarget (s : State) (r : Bool × Pe) : State := State.reply { s with pe := r.2 } [boolByte r.1]

theorem exec_peSetPowerOption (o : Byte) (s : State) :
    exec (.peSetPowerOption o) s = .next (s.retarget (s.pe.setPowerOption s.params o)) := rfl

theorem exec_peSetPps (v : Half) (i strict : Byte) (s : State) :
    exec (.peSetPps v i strict) s = .next (s.retarget (s.pe.setPps s.params v i (strict != 0))) := rfl

theorem exec_peSelectPower (k : Byte) (s : State) :
    exec (.peSelectPower k) s = .next (s.retarget (s.pe.selectPower k)) := rfl

/-- A refused operation writes nothing and answers 0. -/
theorem State.retarget_refused (s : State) : s.retarget (false, s.pe) = s.reply [0] := rfl

/-- What an operation that stores q answers, by the Requests before and after. -/
theorem State.retarget_stored {s : State} {q : Pe} (hid : q.msgId = s.pe.msgId) :
    s.retarget (requestChanged s.pe q, q) = State.reply { s with pe := q }
      [if (s.pe.buildRequest s.params).bytes = (q.buildRequest s.params).bytes then 0 else 1] := by
  rw [State.retarget, boolByte_requestChanged hid s.params]

theorem ofNat_mod_eight (o : Byte) : BitVec.ofNat 3 (o.toNat % 8) = o.extractLsb' 0 3 := by
  apply BitVec.eq_of_toNat_eq
  rw [BitVec.toNat_ofNat, BitVec.extractLsb'_toNat, Nat.shiftRight_zero]
  omega

/-- Settles O43: the option is stored as the whole target, with the index that the evaluator answers under it; an index
is refused or stored as it is. -/
theorem setPowerOptionAndSelectPower : Obligations.SetPowerOptionAndSelectPower := by
  intro s o
  rw [ofNat_mod_eight]
  refine ⟨⟨_, _, _, _, _, exec_peEvaluate 0 0 { s with pe := s.pe.withOption o }, rfl, rfl,
    exec_peSetPowerOption o s, ?_⟩, fun h => ?_, fun h => ⟨_, _, _, rfl, rfl, exec_peSelectPower o s, ?_⟩⟩
  · rw [Pe.evaluate_toNat, Pe.setPowerOption_eq]
    exact State.retarget_stored rfl
  · rw [exec_peSelectPower, Pe.selectPower_refused h, s.retarget_refused]
  · rw [Pe.selectPower_stored (Nat.not_le.2 h)]
    exact State.retarget_stored rfl

/-- Settles O44: strict and not qualified is the one case refused; in every other one the pair is stored, with the
evaluator's index. -/
theorem setPpsRule : Obligations.SetPpsRule := by
  intro s v i strict
  refine ⟨_, _, exec_peEvaluate v i s, fun hstrict hq => ?_,
    fun h => ⟨_, _, _, rfl, rfl, exec_peSetPps v i strict s, ?_⟩⟩
  · have hno : (s.pe.evaluate s.params v i).1 = false := by simpa using hq
    rw [exec_peSetPps, Pe.setPps_refused ⟨bne_iff_ne.2 hstrict, hno⟩, s.retarget_refused]
  · have hstored : ¬ ((strict != 0) = true ∧ (s.pe.evaluate s.params v i).1 = false) := by
      rintro ⟨hstrict, hno⟩
      rw [hno] at h
      exact h.elim (bne_iff_ne.1 hstrict) fun hq => hq rfl
    rw [Pe.evaluate_toNat, Pe.setPps_stored hstored]
    exact State.retarget_stored rfl

/-! ## A target stated again, and an empty list (R241, R245) -/

/-- The evaluator does not read what a PPS target is stored in. -/
theorem Pe.evaluate_storedPps (pe : Pe) (p : Params) (v : Half) (i : Byte) :
    (pe.storedPps p v i).evaluate p v i = pe.evaluate p v i := rfl

theorem Pe.storedPps_storedPps (pe : Pe) (p : Params) (v : Half) (i : Byte) :
    (pe.storedPps p v i).storedPps p v i = pe.storedPps p v i := rfl

/-- i runs f on PE's registers; f answers whether the Request differs, keeps the invariants and the list's length, and
leaves nothing to do for a second run. -/
structure TargetOperation (i : Instr) (f : Params → Pe → Bool × Pe) : Prop where
  runs : ∀ s, exec i s = .next (s.retarget (f s.params s.pe))
  answers : ∀ p pe, (f p pe).1 = requestChanged pe (f p pe).2
  settles : ∀ p pe, (f p (f p pe).2).2 = (f p pe).2
  keepsInv : ∀ p pe, pe.inv = true → (f p pe).2.inv = true
  keepsCount : ∀ p pe, (f p pe).2.pdoCount = pe.pdoCount

theorem targetOperation_setPowerOption (o : Byte) :
    TargetOperation (.peSetPowerOption o) fun p pe => pe.setPowerOption p o where
  runs := exec_peSetPowerOption o
  answers _ _ := rfl
  settles _ _ := rfl
  keepsInv p _ h := Pe.inv_setPowerOption h p o
  keepsCount _ _ := rfl

theorem targetOperation_setPps (v : Half) (i strict : Byte) :
    TargetOperation (.peSetPps v i strict) fun p pe => pe.setPps p v i (strict != 0) where
  runs := exec_peSetPps v i strict
  answers p pe := by
    by_cases h : (strict != 0) = true ∧ (pe.evaluate p v i).1 = false
    · rw [Pe.setPps_refused h, requestChanged_self]
    · rw [Pe.setPps_stored h]
  settles p pe := by
    by_cases h : (strict != 0) = true ∧ (pe.evaluate p v i).1 = false
    · rw [Pe.setPps_refused h, Pe.setPps_refused h]
    · rw [Pe.setPps_stored h, Pe.setPps_stored (by rwa [pe.evaluate_storedPps]), pe.storedPps_storedPps]
  keepsInv p _ h := Pe.inv_setPps h p v i _
  keepsCount p pe := by
    obtain ⟨-, hcount, -⟩ := pe.setPps_list p v i (strict != 0)
    exact hcount

theorem targetOperation_selectPower (k : Byte) :
    TargetOperation (.peSelectPower k) fun _ pe => pe.selectPower k where
  runs := exec_peSelectPower k
  answers _ pe := by
    by_cases h : pe.pdoCount.toNat ≤ k.toNat
    · rw [Pe.selectPower_refused h, requestChanged_self]
    · rw [Pe.selectPower_stored h]
  settles _ pe := by
    by_cases h : pe.pdoCount.toNat ≤ k.toNat
    · rw [Pe.selectPower_refused h, Pe.selectPower_refused h]
    · rw [Pe.selectPower_stored h, Pe.selectPower_stored (pe := pe.storedIndex k) h]
      rfl
  keepsInv _ _ h := Pe.inv_selectPower h k
  keepsCount _ pe := by
    by_cases h : pe.pdoCount.toNat ≤ k.toNat
    · rw [Pe.selectPower_refused h]
    · rw [Pe.selectPower_stored h]; rfl

theorem Pe.selected_empty {pe : Pe} (hinv : pe.inv = true) (h0 : pe.pdoCount = 0) : pe.selected = 0 := by
  obtain ⟨-, hsel, -⟩ := Pe.inv_iff.1 hinv
  exact (Pe.selectedLive_iff.1 hsel).1 h0

/-- On an empty list the Request is for position 1 of an object that reads 0, whatever the target. -/
theorem Pe.requestObject_empty {pe : Pe} (hinv : pe.inv = true) (h0 : pe.pdoCount = 0) :
    pe.requestObject = 0x10000000 := by
  obtain ⟨htail, -, -⟩ := Pe.inv_iff.1 hinv
  have hfirst : pe.srcPdo.get 0 = 0 := by
    have h := List.all_eq_true.1 htail 0 (by decide)
    simpa [h0] using h
  have hobject : pe.srcPdo.get pe.selected.toNat = 0 := by rw [Pe.selected_empty hinv h0]; exact hfirst
  rw [Pe.requestObject, hobject, Pe.selected_empty hinv h0]
  rfl

namespace TargetOperation

variable {i : Instr} {f : Params → Pe → Bool × Pe} (hop : TargetOperation i f)
include hop

/-- The second of two runs finds the first one's target in place. -/
theorem repeated {s t : State} (h : exec i s = .next t) : exec i t = .next (t.reply [0]) := by
  rw [hop.runs] at h
  obtain rfl := Host.Outcome.next.inj h
  have hsame : f s.params (f s.params s.pe).2 = (false, (f s.params s.pe).2) :=
    Prod.ext (by rw [hop.answers, hop.settles, requestChanged_self]) (hop.settles _ _)
  rw [hop.runs]
  show Host.Outcome.next (State.retarget _ (f s.params (f s.params s.pe).2)) = _
  rw [hsame]
  rfl

theorem unchanged_empty {s : State} (hinv : s.pe.inv = true) (h0 : s.pe.pdoCount = 0) :
    ∃ t, exec i s = .next t ∧ t.port.reply = [0] ∧ t.pe.selected = 0 := by
  have hinv' := hop.keepsInv s.params s.pe hinv
  have h0' := (hop.keepsCount s.params s.pe).trans h0
  have hanswer : (f s.params s.pe).1 = false := by
    rw [hop.answers, requestChanged, Pe.requestObject_empty hinv h0, Pe.requestObject_empty hinv' h0',
      bne_self_eq_false]
  refine ⟨_, hop.runs s, ?_, Pe.selected_empty hinv' h0'⟩
  show [boolByte (f s.params s.pe).1] = [0]
  rw [hanswer]
  rfl

end TargetOperation

/-- Settles O45: the three instructions are target operations, and every target operation is quiet when repeated and on
an empty list. -/
theorem restatingTheTargetIsNoChange : Obligations.RestatingTheTargetIsNoChange := by
  intro i hi
  obtain ⟨f, hop⟩ : ∃ f, TargetOperation i f := by
    rcases hi with ⟨o, rfl⟩ | ⟨v, c, strict, rfl⟩ | ⟨k, rfl⟩
    · exact ⟨_, targetOperation_setPowerOption o⟩
    · exact ⟨_, targetOperation_setPps v c strict⟩
    · exact ⟨_, targetOperation_selectPower k⟩
  refine ⟨fun s t => hop.repeated, fun s hinv => hop.unchanged_empty ?_⟩
  simp only [State.inv, Bool.and_eq_true] at hinv
  obtain ⟨⟨-, hpe⟩, -⟩ := hinv
  exact hpe

end Sys2Proof.Machine

/-! PROOFS. PL's commands but for what a TICK does: the getters, the TICK with nothing to do, INIT and the two
reconfiguration commands (O47, O48, O49, O60). -/

namespace Sys2Proof.Machine

open Sys2Proof.Config

/-! ## The getters (44_policy.md R296 to R300) -/

/-- Settles O47: each getter answers a register of PL, a flag as a byte 0 or 1 and the snapshot's status as its code. -/
theorem readyGetters : Obligations.ReadyGetters := by
  intro s
  refine ⟨?_, rfl, rfl, rfl, ?_⟩
  · show execIsTrans s = _
    rw [execIsTrans, boolByte_eq]
    simp only [Bool.or_eq_true]
  · show execGetReady s = _
    rw [execGetReady]
    cases s.pl.readyStatus <;> rfl

/-! ## A TICK with nothing to poll (R273) -/

theorem exec_tick_notReady {s : State} (h : s.pl.ready = false) : exec .tick s = .next (s.reply [5]) := by
  show execTick s = _
  rw [execTick, State.plTick, h]
  rfl

/-- With no poll due, what phase A leaves and its status are the TICK's. -/
theorem exec_tick_noPoll {s r : State} {st : Byte} (hready : s.pl.ready = true) (ha : s.phaseA r st)
    (hpoll : r.pollDue = false) : exec .tick s = .next (r.reply [st]) := by
  rw [State.tick_phaseA hready ha, State.phasePoll_not hpoll]
  show Host.Outcome.next (r.reply [if st = 0 then 0 else st]) = _
  split
  · rw [‹st = 0›]
  · rfl

/-- Settles O48: TICK is phase A and then phase B, the second of which does nothing where no poll is due. -/
theorem tickGateAndIdleTick : Obligations.TickGateAndIdleTick := fun _ =>
  ⟨exec_tick_notReady, fun hready hquiet => exec_tick_noPoll hready (State.phaseA_quiet hquiet), State.phaseA_quiet,
    ⟨_, _, State.phaseA_iff.2 ⟨rfl, rfl⟩⟩, fun _ _ => exec_tick_noPoll⟩

/-! ## A target under 5 V (R302) -/

/-- RESTAGE finds a PPS target under 5 V to put aside, and none put aside already. -/
def State.stages (s : State) : Prop := s.pl.ppsVNext = 0 ∧ s.pe.ppsV.toNat ≠ 0 ∧ s.pe.ppsV.toNat < 250

theorem State.restage_staged {s : State} (h : s.stages) :
    s.restage = { s with
      pl := { s.pl with ppsVNext := s.pe.ppsV, ppsINext := s.pe.ppsI }
      pe := s.pe.storedPps s.params 250 s.pe.ppsI } := by
  obtain ⟨hnext, hne, hlt⟩ := h
  rw [State.restage, if_pos ⟨hnext, fun h0 => hne (congrArg BitVec.toNat h0), hlt⟩, Pe.setPps_stored (by simp)]
  rfl

theorem State.restage_unstaged {s : State} (h : ¬ s.stages) : s.restage = s := by
  rw [State.restage, if_neg]
  rintro ⟨hnext, hne, hlt⟩
  exact h ⟨hnext, fun h0 => hne (BitVec.eq_of_toNat_eq h0), hlt⟩

/-! ## INIT (R271) -/

/-- Before a source has sent its list the evaluator answers index 0, so that a target is stored as it is given. -/
theorem Pe.storedPps_empty {pe : Pe} (h : pe.pdoCount = 0) (p : Params) (v : Half) (i : Byte) :
    pe.storedPps p v i = { pe with ppsV := v, ppsI := i, selected := 0 } := by
  rw [Pe.storedPps, Pe.evaluate_empty pe p v i h]
  rfl

/-- PE zeroed, with a target stored in it. -/
def Pe.targeting (option : Byte) (v i : Nat) : Pe :=
  { Pe.reset with powerOption := BitVec.ofNat 3 (option.toNat % 8), ppsV := BitVec.ofNat 16 v, ppsI := BitVec.ofNat 8 i }

theorem Pe.setPowerOption_reset (p : Params) (option : Byte) :
    (Pe.reset.setPowerOption p option).2 = Pe.targeting option 0 0 := by
  rw [Pe.setPowerOption_eq, Pe.storedOption, Pe.evaluate_empty _ p 0 0 rfl, Pe.targeting, ofNat_mod_eight]
  rfl

/-- A current is cut to the byte that holds it. -/
theorem ofNat_eight_mod (n : Nat) : BitVec.ofNat 8 (n % 2 ^ 8) = BitVec.ofNat 8 n := by
  apply BitVec.eq_of_toNat_eq
  rw [BitVec.toNat_ofNat, BitVec.toNat_ofNat, Nat.mod_mod]

/-- The target INIT stores: a voltage of 0 leaves none. -/
theorem Pe.initTarget_reset (p : Params) (option : Byte) (mv ma : Half) :
    Pe.reset.initTarget p option mv ma
      = Pe.targeting option (if mv = 0 then 0 else mv.toNat / 20) (if mv = 0 then 0 else ma.toNat / 50 % 2 ^ 8) := by
  rw [Pe.initTarget, Pe.setPowerOption_reset]
  split
  · rfl
  · rw [Pe.setPps_stored (by simp), Pe.storedPps_empty rfl, Pe.targeting, Pe.targeting, toPps, ofNat_eight_mod]
    rfl

/-- What INIT leaves where FR_INIT answers OK, from the state u that FR_INIT leaves. -/
def State.started (u : State) (option : Byte) (mv ma : Half) (pl : Pl) (po : Port) : State :=
  let t := State.restage (u.withUnits (Pe.reset.initTarget u.params option mv ma) pl po)
  { t with pl := { t.pl with tPoll := t.env.now, ready := true } }

/-- INIT is FR_INIT with PE and PL zeroed, and what follows it if it answers OK. -/
theorem State.plInit_eq (s : State) (option : Byte) (mv ma : Half) :
    s.plInit option mv ma = if s.frInit.1 = .ok then (.ok, s.frInit.2.started option mv ma s.pl.cleared s.port)
      else pairWithUnits Pe.reset s.pl.cleared s.port s.frInit := by
  have h : State.frInit { s with pe := Pe.reset, pl := s.pl.cleared }
      = pairWithUnits Pe.reset s.pl.cleared s.port s.frInit := frInit_withUnits s Pe.reset s.pl.cleared s.port
  rw [State.plInit, h]
  rfl

/-- FR_INIT's five primitives answered and the identification recognised. -/
theorem frInit_ok {s : State} (hs : ∀ k < 5, s.succeeds k = true)
    (hid : idRecognised s.params (s.env.answerAt 1).byte = true) : s.frInit.1 = .ok := by
  obtain ⟨-, -, -, hrest⟩ := frInitRule s
  obtain ⟨-, -, -, hok⟩ := hrest (hs 0 (by decide)) (hs 1 (by decide)) hid
  have hreply := congrArg (fun t : State => t.port.reply)
    (Host.Outcome.next.inj (hok (hs 2 (by decide)) (hs 3 (by decide)) (hs 4 (by decide))))
  exact Status.code_inj (List.cons.inj hreply).1

/-- A target stored by INIT is staged where it is under 5 V: its 16-bit register holds it uncut. -/
theorem stages_targeting (u : State) (option : Byte) {v : Nat} (hv : v < 2 ^ 16) (i : Nat) (p : Pl) (po : Port) :
    (u.withUnits (Pe.targeting option v i) p.cleared po).stages ↔ v ≠ 0 ∧ v < 250 := by
  have hv16 : (BitVec.ofNat 16 v).toNat = v := by rw [BitVec.toNat_ofNat, Nat.mod_eq_of_lt hv]
  show (0 : Half) = 0 ∧ (BitVec.ofNat 16 v).toNat ≠ 0 ∧ (BitVec.ofNat 16 v).toNat < 250 ↔ _
  rw [hv16]
  simp only [true_and]

/-- INIT's PE and PL after FR_INIT has succeeded: the target, or 5 V and the target put aside. -/
theorem State.started_eq (u : State) (option : Byte) (mv ma : Half) (p : Pl) (po : Port) :
    let v := if mv = 0 then 0 else mv.toNat / 20
    let i := if mv = 0 then 0 else ma.toNat / 50 % 2 ^ 8
    let staged := v ≠ 0 ∧ v < 250
    u.started option mv ma p.cleared po = u.withUnits (Pe.targeting option (if staged then 250 else v) i)
      { Pl.reset with
        ready := true
        tPoll := u.env.now
        ppsVNext := BitVec.ofNat 16 (if staged then v else 0)
        ppsINext := BitVec.ofNat 8 (if staged then i else 0) } po := by
  intro v i staged
  have hv : v < 2 ^ 16 := by have := mv.isLt; simp only [v]; split <;> omega
  have hstages := stages_targeting u option hv i p po
  rw [State.started, Pe.initTarget_reset]
  by_cases hstaged : staged
  · rw [State.restage_staged (hstages.2 hstaged), Pe.storedPps_empty rfl]
    simp only [if_pos hstaged]
    rfl
  · rw [State.restage_unstaged fun h => hstaged (hstages.1 h)]
    simp only [if_neg hstaged]
    rfl

/-- An answer from another unit's registers goes to the same port, which FR_INIT has left alone. -/
theorem frInit_reply_withUnits (s : State) (pe : Pe) (pl : Pl) (bs : List Byte) :
    (s.frInit.2.withUnits pe pl s.port).reply bs = State.reply { s.frInit.2 with pe := pe, pl := pl } bs := by
  obtain ⟨-, -, hport, -⟩ := frInit_step s
  rw [← hport]
  rfl

/-- Settles O49: INIT's two ways on from FR_INIT (`State.plInit_eq`), the first with its target staged or not
(`State.started_eq`). -/
theorem initRule : Obligations.InitRule := by
  refine fun s option mv ma => ⟨fun hs hid => ?_, fun u c hu hc hne => ?_⟩
  · have hok := frInit_ok hs hid
    have hstarted := s.frInit.2.started_eq option mv ma s.pl s.port
    refine ⟨s.frInit.2.replySt s.frInit.1, s.frInit.2.started option mv ma s.pl.cleared s.port, rfl,
      by rw [hok]; rfl, by rw [hstarted]; rfl, by rw [hstarted]; rfl, ?_⟩
    show execInit option mv ma s = _
    rw [execInit, State.plInit_eq, if_pos hok, hstarted]
    exact congrArg _ (frInit_reply_withUnits s _ _ [0])
  · obtain rfl := Host.Outcome.next.inj hu
    have hfail : s.frInit.1 ≠ .ok := fun h => hne (by rw [← (List.cons.inj hc).1, h]; rfl)
    show execInit option mv ma s = _
    rw [execInit, State.plInit_eq, if_neg hfail, Pl.cleared_eq]
    exact congrArg _ (frInit_reply_withUnits s _ _ _)

/-! ## The reconfiguration commands (R293 to R295) -/

theorem exec_reqPps_notReady {s : State} (h : s.pl.ready = false) (mv ma : Half) :
    exec (.reqPps mv ma) s = .next (s.reply [5, 0]) := by
  show execReqPps mv ma s = _
  rw [execReqPps, State.reqPps, h]
  rfl

theorem exec_reqOpt_notReady {s : State} (h : s.pl.ready = false) (o : Byte) :
    exec (.reqOpt o) s = .next (s.reply [5]) := by
  show execReqOpt o s = _
  rw [execReqOpt, State.reqOpt, h]
  rfl

/-- A current above 255 units of 50 mA is refused. -/
theorem exec_reqPps_tooMuch {s : State} (h : s.pl.ready = true) {mv ma : Half} (hma : 255 < ma.toNat / 50) :
    exec (.reqPps mv ma) s = .next (s.reply [0, 0]) := by
  show execReqPps mv ma s = _
  rw [execReqPps, State.reqPps, if_pos h, if_pos (by exact hma)]
  rfl

/-- A current that fits, and a target that PE_EVALUATE does not qualify. -/
theorem exec_reqPps_unqualified {s : State} (h : s.pl.ready = true) {mv ma : Half} (hma : ma.toNat / 50 ≤ 255)
    (hq : ¬ (s.pe.evaluate s.params (BitVec.ofNat 16 (mv.toNat / 20)) (BitVec.ofNat 8 (ma.toNat / 50))).1 = true) :
    exec (.reqPps mv ma) s = .next (s.reply [0, 0]) := by
  show execReqPps mv ma s = _
  rw [execReqPps, State.reqPps, if_pos h, if_neg (by exact Nat.not_lt.2 hma)]
  dsimp only
  rw [if_neg (by exact hq)]
  rfl

/-- A target that qualifies is stored, and PL's flags follow "changed". -/
theorem exec_reqPps_qualified {s : State} (h : s.pl.ready = true) {mv ma : Half} (hma : ma.toNat / 50 ≤ 255)
    (hq : (s.pe.evaluate s.params (BitVec.ofNat 16 (mv.toNat / 20)) (BitVec.ofNat 8 (ma.toNat / 50))).1 = true) :
    let r := s.pe.setPps s.params (BitVec.ofNat 16 (mv.toNat / 20)) (BitVec.ofNat 8 (ma.toNat / 50)) true
    exec (.reqPps mv ma) s = .next (State.reply { s with pe := r.2, pl := s.pl.reconfigured r.1 } [0, 1]) := by
  intro r
  show execReqPps mv ma s = _
  rw [execReqPps, State.reqPps, if_pos h, if_neg (by exact Nat.not_lt.2 hma)]
  dsimp only
  rw [if_pos (by exact hq)]
  rfl

theorem exec_reqOpt_ready {s : State} (h : s.pl.ready = true) (o : Byte) :
    exec (.reqOpt o) s = .next (State.reply { s with
      pe := (s.pe.setPowerOption s.params o).2
      pl := s.pl.reconfigured (s.pe.setPowerOption s.params o).1 } [0]) := by
  show execReqOpt o s = _
  rw [execReqOpt, State.reqOpt, if_pos h]
  rfl

/-- PL's flags by the byte that a target operation answers. -/
theorem Pl.reconfigured_eq (p : Pl) (changed : Bool) :
    p.reconfigured changed
      = { p with ppsVNext := 0, ppsINext := 0, reqPending := p.reqPending || (boolByte changed != 0) } := by
  cases changed <;> rfl

/-- Settles O60: REQ_PPS and REQ_OPT are PE's two target operations with PL's flags beside them. -/
theorem reconfigurationCommands : Obligations.ReconfigurationCommands := by
  refine fun s => ⟨fun mv ma h => ⟨exec_reqPps_tooMuch h, fun hma => ?_⟩, fun o h => ?_,
    fun h => ⟨exec_reqPps_notReady h, exec_reqOpt_notReady h⟩⟩
  · refine ⟨_, _, _, _, exec_peEvaluate _ _ s, exec_peSetPps _ _ 1 s, rfl, fun hq => ?_, fun hq => ?_⟩
    · exact exec_reqPps_unqualified h hma (by simpa using hq)
    · rw [exec_reqPps_qualified h hma (by simpa using hq), Pl.reconfigured_eq]
      rfl
  · refine ⟨_, _, exec_peSetPowerOption o s, rfl, ?_⟩
    rw [exec_reqOpt_ready h, Pl.reconfigured_eq]
    rfl

end Sys2Proof.Machine

/-! PROOFS. A TICK whose poll has no event, or attaches or detaches (O53, O54, O59). -/

namespace Sys2Proof.Machine

open Sys2Proof.Config

/-! ## What the polls of a TICK leave (44_policy.md R275) -/

/-- What the command FR_POLL leaves of s: the framer's registers and the environment, whose log it does not write. -/
def State.pollLeft (s : State) (fr : Fr) (e : Env) (bs : List Byte) : State :=
  ⟨fr, s.pe, s.pl, { e with log := s.env.log }, ⟨s.port.inbox, bs⟩, s.params⟩

/-- The same inside a TICK, which has written T_POLL: what its events are acted on from. -/
def State.polled (s : State) (fr : Fr) (e : Env) : State :=
  ⟨fr, s.pe, { s.pl with tPoll := s.env.now }, { e with log := s.env.log }, s.port, s.params⟩

/-- The polls' framer and environment, by which the statements and the TICK speak of the same state. -/
theorem settlesAt_pollLeft {s u : State} {c b : Byte} (hu : s.settlesAt u) (hr : u.port.reply = [c, b]) :
    ∃ fr e, u = s.pollLeft fr e [c, b] ∧
      s.settled.state.withUnits s.pe { s.pl with tPoll := s.env.now } s.port = s.polled fr e ∧
      (s.settled.status = .ok → fr.ready = true) := by
  obtain ⟨-, -, rfl⟩ := State.settlesAt_reads hu hr
  obtain ⟨hpe, hpl, hport, hparams, -, hlog, -⟩ := s.settled_step
  refine ⟨s.settled.state.fr, s.settled.state.env, ?_, ?_, fun hok => ?_⟩
  · rw [State.pollLeft, ← hpe, ← hpl, ← hport, ← hparams, ← hlog]
    rfl
  · rw [State.polled, ← hparams, ← hlog]
    rfl
  · exact pollTries_ready (by rw [State.settled] at hok; rw [hok]; decide)

/-- The TICK of s0 whose phase A has left s with status st, and whose polls, settled at u, answer the status byte c and
the event byte b. -/
theorem exec_tick_polled {s0 s u : State} {st c b : Byte} (hready : s0.pl.ready = true) (ha : s0.phaseA s st)
    (hdue : s.pollDue = true) (hu : s.settlesAt u) (hr : u.port.reply = [c, b]) :
    ∃ fr e status ev, u = s.pollLeft fr e [c, b] ∧ status.code = c ∧ ev.byte = b ∧ (status = .ok → fr.ready = true) ∧
      let r := if status = .ok then (s.polled fr e).onFrEvents ev else (status, s.polled fr e)
      exec .tick s0 = .next (r.2.reply [if st = 0 then r.1.code else st]) := by
  obtain ⟨hstatus, hevents, -⟩ := State.settlesAt_reads hu hr
  obtain ⟨fr, e, hleft, hpolled, hframer⟩ := settlesAt_pollLeft hu hr
  refine ⟨fr, e, s.settled.status, s.settled.events, hleft, hstatus, hevents, hframer, ?_⟩
  rw [State.tick_phaseA hready ha, State.phasePoll_due hdue, State.pollAndDispatch_eq]
  dsimp only
  rw [hpolled]

/-- A poll that answers OK: its events are acted on, and the first status that is not OK is the TICK's. -/
theorem exec_tick_events {s0 s u : State} {st b : Byte} {ev : FrEvents} (hready : s0.pl.ready = true)
    (ha : s0.phaseA s st) (hdue : s.pollDue = true) (hu : s.settlesAt u) (hr : u.port.reply = [0, b])
    (hev : ev.byte = b) :
    ∃ fr e, u = s.pollLeft fr e [0, b] ∧ fr.ready = true ∧
      ∀ c r, (s.polled fr e).onFrEvents ev = (c, r) →
        exec .tick s0 = .next (r.reply [if st = 0 then c.code else st]) := by
  obtain ⟨fr, e, status, ev', hleft, hstatus, hevents, hframer, htick⟩ := exec_tick_polled hready ha hdue hu hr
  obtain rfl : status = .ok := Status.code_inj hstatus
  obtain rfl : ev' = ev := FrEvents.byte_inj (hevents.trans hev.symm)
  refine ⟨fr, e, hleft, hframer rfl, fun c r hevents => ?_⟩
  rw [htick, if_pos rfl, hevents]

/-- A status that OK does not replace (R273). -/
theorem if_code_ok (st : Byte) : (if st = 0 then Status.ok.code else st) = st := by
  split
  · rw [‹st = 0›]; rfl
  · rfl

/-! ## A poll with no event -/

/-- T_POLL is all that such a poll writes, whether it has answered OK or an error. -/
theorem exec_tick_noEvent {s0 s u : State} {st c : Byte} (hready : s0.pl.ready = true) (ha : s0.phaseA s st)
    (hdue : s.pollDue = true) (hu : s.settlesAt u) (hr : u.port.reply = [c, 0]) :
    exec .tick s0
      = .next (State.reply { u with pl := { s.pl with tPoll := s.env.now } } [if st = 0 then c else st]) := by
  obtain ⟨fr, e, status, ev, rfl, rfl, hevents, -, htick⟩ := exec_tick_polled hready ha hdue hu hr
  obtain rfl : ev = FrEvents.empty := FrEvents.byte_inj (hevents.trans FrEvents.byte_empty.symm)
  rw [htick]
  split
  · rw [‹status = .ok›]; rfl
  · rfl

/-- A poll that is not answered Busy is the one a TICK settles on. -/
theorem State.pollsTo_first {s u : State} (n : Nat) (hu : exec .frPoll s = .next u) (hr : u.port.reply ≠ [1, 0]) :
    s.pollsTo n u := by
  cases n with
  | zero => exact hu
  | succ n => exact ⟨u, hu, by rw [if_neg hr]⟩

/-- A Busy poll hands over to the next one. -/
theorem State.pollsTo_busy {s u v : State} {n : Nat} (hu : exec .frPoll s = .next u) (hr : u.port.reply = [1, 0])
    (hv : u.pollsTo n v) : s.pollsTo (n + 1) v :=
  ⟨u, hu, by rw [if_pos hr]; exact hv⟩

/-- An answer with another status than Busy. -/
theorem reply_ne_busy {u : State} {c : Byte} (hr : u.port.reply = [c, 0]) (hc : c ≠ 1) : u.port.reply ≠ [1, 0] :=
  fun h => hc (List.cons.inj (hr.symm.trans h)).1

/-- Settles O59: each clause names the poll the TICK settles on, which has no event (`exec_tick_noEvent`). -/
theorem tickReportsAFailedPoll : Obligations.TickReportsAFailedPoll := by
  intro s0 s u st hready ha hdue polled
  have hpolled : ∀ (v : State) (c : Byte), s.settlesAt v → v.port.reply = [c, 0] → polled v c :=
    fun v c hv hr => exec_tick_noEvent hready ha hdue hv hr
  refine ⟨hpolled u, fun hu => ⟨fun c hc hr => ?_, fun u2 hr hu2 =>
    ⟨fun c hn hc hr2 => ?_, fun u3 c hn hr2 hu3 hr3 => ?_⟩⟩⟩
  · exact hpolled u c (State.pollsTo_first _ hu (reply_ne_busy hr hc)) hr
  · refine hpolled u2 c ?_ hr2
    obtain ⟨n, hn⟩ : ∃ n, s.params.nPollTries - 1 = n + 1 := ⟨s.params.nPollTries - 2, by omega⟩
    rw [State.settlesAt, hn]
    exact State.pollsTo_busy hu hr (State.pollsTo_first n hu2 (reply_ne_busy hr2 hc))
  · refine hpolled u3 c ?_ hr3
    rw [State.settlesAt, hn]
    exact State.pollsTo_busy hu hr (State.pollsTo_busy hu2 hr2 hu3)

/-! ## A detach (R279) -/

/-- Settles O54: ON_DETACHED is the one event acted on. -/
theorem tickDetach : Obligations.TickDetach := by
  intro s0 s u st hready ha hdue hu hr
  obtain ⟨fr, e, rfl, -, htick⟩ := exec_tick_events hready ha hdue hu hr FrEvents.byte_detached
  rw [htick _ _ rfl, if_code_ok]
  rfl

/-! ## An attach (R277, R278) -/

/-- DEFAULT_POWER (R284) with a framer that is ready. -/
theorem State.defaultPower_ready {s : State} (h : s.fr.ready = true) :
    s.defaultPower = State.log { s with
      fr := { s.fr with vbusSenseEn := true }
      pl := s.pl.withReady .typical defaultMv defaultMa } .powerReady none [] := by
  rw [State.defaultPower_eq, h, Bool.true_or]

/-- A line level above the USB default tier. -/
theorem levelCode_gt_one_iff (l : LineLevel) : 1 < (levelCode l).toNat ↔ l = .rd1A5 ∨ l = .rd3A0 := by
  cases l <;> decide

theorem qualifies_iff (l1 l2 : LineLevel) : qualifies l1 l2 = true ↔
    (l1 = .rd1A5 ∨ l1 = .rd3A0) ∧ l2 = .opn ∨ (l2 = .rd1A5 ∨ l2 = .rd3A0) ∧ l1 = .opn := by
  simp only [qualifies, Bool.or_eq_true, Bool.and_eq_true, decide_eq_true_eq, beq_iff_eq, levelCode_gt_one_iff]

/-- PE reset, the waits cleared and the attach logged: what ON_ATTACHED does on every attach. -/
def State.attachLogged (s : State) : State :=
  State.log { s with pe := s.pe.clear, pl := s.pl.clearWaits } .attach none []

/-- A source that can offer more than default power is waited for, from now on. -/
def State.awaitingSource (s : State) : State :=
  { s with pl := { s.pl with waitSrcCap := true, tSrcCap := s.env.now } }

theorem State.onAttached_qualified {s : State} (h : qualifies s.fr.cc1 s.fr.cc2 = true) :
    s.onAttached = (State.restage { s.attachLogged with pl := s.attachLogged.pl.notReady }).awaitingSource :=
  if_pos h

theorem State.onAttached_unqualified {s : State} (h : ¬ qualifies s.fr.cc1 s.fr.cc2 = true) :
    s.onAttached = s.attachLogged.defaultPower :=
  if_neg h

/-- Settles O53: a qualifying attach waits for the source, with or without a target to stage; any other one is
DEFAULT_POWER. -/
theorem tickAttach : Obligations.TickAttach := by
  intro s0 s u st hready ha hdue hu hr
  obtain ⟨fr, e, rfl, hframer, htick⟩ := exec_tick_events hready ha hdue hu hr FrEvents.byte_attached
  have hattach := htick _ _ (rfl : _ = (Status.ok, (s.polled fr e).onAttached))
  rw [if_code_ok] at hattach
  have hqualifies := qualifies_iff fr.cc1 fr.cc2
  refine ⟨fun hq hs => ?_, fun hq hs => ⟨_, exec_peSetPps 250 s.pe.ppsI 0 _, ?_⟩, fun hq => ?_⟩
  · rw [hattach, State.onAttached_qualified (s := s.polled fr e) (hqualifies.2 hq),
      State.restage_unstaged (by exact hs)]
    rfl
  · rw [hattach, State.onAttached_qualified (s := s.polled fr e) (hqualifies.2 hq), State.restage_staged (by exact hs),
      Pe.setPps_stored (by simp)]
    rfl
  · rw [hattach, State.onAttached_unqualified (s := s.polled fr e) fun h => hq (hqualifies.1 h),
      State.defaultPower_ready (by exact hframer), State.log, State.attachLogged, State.log_env_log, List.append_assoc]
    rfl

end Sys2Proof.Machine

/-! PROOFS. Phase A of a TICK: the two deadlines and a Request that is due (O50, O51, O52). -/

namespace Sys2Proof.Machine

open Sys2Proof.Config

/-! ## How a TICK goes on after the source-capability deadline (44_policy.md R273) -/

/-- A TICK of s goes on from t, reached with status st, as a TICK of t would: its phase A is over where nothing else is
due, and otherwise what follows is t's own TICK. -/
def State.goesOn (s t : State) (st : Byte) : Prop :=
  (t.psRdyDue = false → t.sendDue = false →
    s.phaseA t st ∧ (t.pollDue = false → exec .tick s = .next (t.reply [st]))) ∧
  (t.capDue = false → ∃ (w : State) (rest : Byte), exec .tick t = .next w ∧ w.port.reply = [rest] ∧
    exec .tick s = .next (w.reply [if st = 0 then rest else st]))

theorem worst_assoc (a b c : Status) : worst (worst a b) c = worst a (worst b c) := by cases a <;> rfl

theorem State.goesOn_of_phaseSrcCap {s t : State} {c : Status} (hready : s.pl.ready = true)
    (h : s.phaseSrcCap = (c, t)) (ht : t.pl.ready = true) : s.goesOn t c.code := by
  refine ⟨fun hps hsend => ?_, fun hcap => ?_⟩
  · have ha : s.phaseA t c.code := State.phaseA_iff.2 (by
      rw [h, State.phaseRequest_not hps hsend, worst_ok_right]; exact ⟨rfl, rfl⟩)
    exact ⟨ha, exec_tick_noPoll hready ha⟩
  · have htick : s.plTick = (worst c t.plTick.1, t.plTick.2) := by
      rw [State.plTick_ready hready, State.plTick_ready ht, h, State.phaseSrcCap_not hcap, worst_ok_left, worst_assoc]
    refine ⟨_, _, rfl, rfl, ?_⟩
    show execTick s = _
    rw [execTick, htick, ← worst_code]
    rfl

/-! ## SRC_CAP_TIMEOUT (R280, R281) -/

/-- The first three times: the timer restarted, the retry counted, and Get_Source_Cap written and logged. -/
def State.capRetried (s : State) (h : Half) (calls : List XCall) : State :=
  let sent := s.after calls
  { sent with
    pe := s.pe
    pl := { s.pl with tSrcCap := s.env.now, srcCapRetry := BitVec.ofNat 2 (s.pl.srcCapRetry.toNat + 1) }
    env := { sent.env with log := s.env.log ++ [⟨sent.env.now, .transmit, some h, []⟩] } }

/-- The header of Get_Source_Cap in numbers. -/
theorem Pe.buildGetSourceCap_header (pe : Pe) (p : Params) : (pe.buildGetSourceCap p).header
    = BitVec.ofNat 16 (0x0080 + (typeCode p .ctrl 7).toNat + pe.msgId.toNat * 2 ^ 9) :=
  pe.header_eq p .ctrl 7 0 0

theorem retry_succ (n : BitVec 2) : BitVec.ofNat 2 (n.toNat + 1) = n + 1 := by revert n; decide

/-- PL's registers written before a sequence, and a log tuple after it. -/
theorem State.withUnits_after_log (s : State) (pl : Pl) (cs : List XCall) (k : LogKind) (h : Option Half)
    (os : List Obj) : ((s.after cs).withUnits s.pe pl s.port).log k h os
      = { s.after cs with
          pe := s.pe
          pl := pl
          env := { (s.after cs).env with log := s.env.log ++ [⟨(s.after cs).env.now, k, h, os⟩] } } := by
  simp only [State.withUnits, State.log, State.after_port, State.after_log]

/-- The retry is counted and the timer restarted whatever becomes of the frame. -/
theorem State.srcCapTimeout_retry {s : State} (h3 : s.pl.srcCapRetry.toNat < 3) {calls : List XCall} {c : Status}
    (hsent : s.frTxFrame (s.pe.buildGetSourceCap s.params).header [] = (c, s.after calls)) :
    s.srcCapTimeout = (c, s.capRetried (s.pe.buildGetSourceCap s.params).header calls) := by
  have h := frTxFrame_withUnits s (s.pe.buildGetSourceCap s.params).header [] s.pe
    { s.pl with tSrcCap := s.env.now, srcCapRetry := s.pl.srcCapRetry + 1 } s.port
  rw [hsent, pairWithUnits] at h
  rw [State.srcCapTimeout, if_pos (by exact h3), State.capRetried, retry_succ]
  dsimp only
  rw [← State.withUnits_after_log]
  exact congrArg (fun r : Status × State => (r.1, r.2.log .transmit _ [])) h

/-- The fourth time: the timer restarted, a hard reset asked for and logged, and, whatever became of it, the retries from
0 again, PE reset and NotAvailable. -/
def State.capGivenUp (s : State) (calls : List XCall) : State :=
  let sent := s.after calls
  { sent with
    pe := { s.pe with msgId := 0, curTable := .none, curIndex := 0 }
    pl := { s.pl with
      tSrcCap := s.env.now
      srcCapRetry := 0
      readyStatus := .notAvailable
      readyMv := 0
      readyMa := 0 }
    env := { sent.env with log := s.env.log ++ [⟨sent.env.now, .transmit, none, []⟩] } }

/-- PE reset and nothing available, whatever the hard reset answered. -/
def State.abandoned (s : State) : State := { s with pe := s.pe.clear, pl := s.pl.notReady }

theorem State.srcCapTimeout_giveUp {s : State} (h3 : s.pl.srcCapRetry = 3) {calls : List XCall} {c : Status}
    (hsent : s.frTxHardReset = (c, s.after calls)) : s.srcCapTimeout = (c, s.capGivenUp calls) := by
  have hfourth : ¬ s.pl.srcCapRetry.toNat < nSrcCapRetry := by rw [h3]; decide
  have hlogged := s.withUnits_after_log { s.pl with tSrcCap := s.env.now, srcCapRetry := 0 } calls .transmit none []
  have h := frTxHardReset_withUnits s s.pe { s.pl with tSrcCap := s.env.now, srcCapRetry := 0 } s.port
  rw [hsent, pairWithUnits] at h
  calc s.srcCapTimeout
      = (fun r : Status × State => (r.1, (r.2.log .transmit none []).abandoned))
          (s.withUnits s.pe { s.pl with tSrcCap := s.env.now, srcCapRetry := 0 } s.port).frTxHardReset := if_neg hfourth
    _ = (c, (((s.after calls).withUnits s.pe { s.pl with tSrcCap := s.env.now, srcCapRetry := 0 } s.port).log
          .transmit none []).abandoned) := by rw [h]
    _ = (c, s.capGivenUp calls) := by rw [hlogged]; rfl

/-! ## The hard reset by its two primitives (40_framer.md R146) -/

theorem State.frTxHardReset_written {s : State} (hr : s.fr.ready = true) (h0 : s.succeeds 0 = true)
    (h1 : s.succeeds 1 = true) :
    s.frTxHardReset = (.ok, s.after [.sendHardReset, .delayMs s.params.tHardResetSettleMs, .pdReset]) := by
  rw [State.frTxHardReset_ready hr, State.attempt_ok h0,
    State.attempt_ok (by rwa [State.succeeds_delay, State.succeeds_issue])]
  rfl

theorem State.frTxHardReset_unsent {s : State} {e : TransportError} (hr : s.fr.ready = true)
    (h0 : (s.env.answerAt 0).fail = some e) : s.frTxHardReset = (errorStatus e, s.after [.sendHardReset]) := by
  rw [State.frTxHardReset_ready hr, State.attempt_fail h0]
  rfl

theorem State.frTxHardReset_unsettled {s : State} {e : TransportError} (hr : s.fr.ready = true)
    (h0 : s.succeeds 0 = true) (h1 : (s.env.answerAt 1).fail = some e) :
    s.frTxHardReset
      = (errorStatus e, s.after [.sendHardReset, .delayMs s.params.tHardResetSettleMs, .pdReset]) := by
  rw [State.frTxHardReset_ready hr, State.attempt_ok h0,
    State.attempt_fail (by rwa [Env.answerAt_delay, Env.answerAt_issue])]
  rfl

/-! ## A frame written, by its one primitive (40_framer.md R145) -/

theorem State.frTxFrame_written {s : State} (hr : s.fr.ready = true) (h0 : s.succeeds 0 = true) (h : Half)
    (os : List Obj) : s.frTxFrame h os = (.ok, s.after [.txWrite (txBytes s.params h os)]) := by
  rw [State.frTxFrame_ready hr, State.attempt_ok h0]
  rfl

theorem State.frTxFrame_unwritten {s : State} (hr : s.fr.ready = true) (h0 : s.succeeds 0 = false) (h : Half)
    (os : List Obj) : s.frTxFrame h os = (.writeError, s.after [.txWrite (txBytes s.params h os)]) := by
  obtain ⟨e, he⟩ := State.not_succeeds h0
  rw [State.frTxFrame_ready hr, State.attempt_fail he]
  rfl

/-- Settles O50: the timeout leaves its state and status whatever the framer's operation does
(`State.srcCapTimeout_retry`, `State.srcCapTimeout_giveUp`), and the TICK goes on from there. -/
theorem sourceCapTimeout : Obligations.SourceCapTimeout := by
  intro s hready hdue goesOn
  have hphase := State.phaseSrcCap_due hdue
  refine ⟨fun h3 => ?_, fun h3 => ?_⟩
  · have hgo : ∀ (calls : List XCall) (c : Status),
        s.frTxFrame (s.pe.buildGetSourceCap s.params).header [] = (c, s.after calls) →
        s.goesOn (s.capRetried (s.pe.buildGetSourceCap s.params).header calls) c.code := fun calls c hsent =>
      State.goesOn_of_phaseSrcCap hready (hphase.trans (State.srcCapTimeout_retry h3 hsent)) hready
    rw [Pe.buildGetSourceCap_header] at hgo
    exact ⟨fun hr h0 => hgo _ _ (State.frTxFrame_written hr h0 _ _),
      fun hr h0 => hgo _ _ (State.frTxFrame_unwritten hr h0 _ _), fun hr => hgo [] _ (State.frTxFrame_notReady hr _ _)⟩
  · have hgo : ∀ (calls : List XCall) (c : Status), s.frTxHardReset = (c, s.after calls) →
        s.goesOn (s.capGivenUp calls) c.code := fun calls c hsent =>
      State.goesOn_of_phaseSrcCap hready (hphase.trans (State.srcCapTimeout_giveUp h3 hsent)) hready
    refine ⟨fun hr h0 h1 => hgo _ _ (State.frTxHardReset_written hr h0 h1), fun e hr h0 => ?_, fun e hr h0 h1 => ?_,
      fun hr => hgo [] _ (State.frTxHardReset_notReady hr)⟩
    · rw [← Status.code_errorStatus]
      exact hgo _ _ (State.frTxHardReset_unsent hr h0)
    · rw [← Status.code_errorStatus]
      exact hgo _ _ (State.frTxHardReset_unsettled hr h0 h1)

/-! ## PS_RDY_TIMEOUT and a Request that is due (R286, R289, R292) -/

/-- Where phase A has answered OK and left nothing due, the TICK goes on as the TICK of that state. -/
theorem exec_tick_of_quiet {s t : State} (hready : s.pl.ready = true) (ha : s.phaseA t 0) (ht : t.pl.ready = true)
    (hquiet : t.quiet = true) : exec .tick s = exec .tick t := by
  rw [State.tick_phaseA hready ha, State.tick_phaseA ht (State.phaseA_quiet hquiet)]

theorem State.quiet_iff (s : State) :
    s.quiet = true ↔ s.capDue = false ∧ s.psRdyDue = false ∧ s.sendDue = false := by
  simp only [State.quiet, Bool.and_eq_true, Bool.not_eq_true', and_assoc]

/-- Settles O51: the timeout is all that phase A does, and it leaves no PS_RDY awaited. -/
theorem psRdyTimeoutFallsBack : Obligations.PsRdyTimeoutFallsBack := by
  intro s hready hcap hps t
  have ha : s.phaseA t 0 := ⟨s, 0, 0, .inl ⟨hcap, rfl, rfl⟩, .inr (.inl ⟨hps, rfl, rfl⟩), rfl⟩
  refine ⟨ha, exec_tick_noPoll hready ha, fun hsend => ?_, fun u c hdue hu hr => ?_⟩
  · exact exec_tick_of_quiet hready ha hready ((State.quiet_iff t).2 ⟨hcap, rfl, hsend⟩)
  · exact exec_tick_noEvent hready ha hdue hu hr

/-- A Request written just now: no PS_RDY deadline has passed, and none is to be sent while its PS_RDY is awaited. -/
theorem State.not_psRdyDue_of_now {s : State} (h : s.pl.tPsRdy = s.env.now) : s.psRdyDue = false := by
  rw [State.psRdyDue, h, BitVec.sub_self]
  exact Bool.and_false _

theorem State.not_sendDue_of_waiting {s : State} (h : s.pl.waitPsRdy = true) : s.sendDue = false := by
  rw [State.sendDue, h]
  rfl

/-- The Request logged after the primitives that were to write it, whether or not it was written. -/
def State.requestLogged (s : State) (calls : List XCall) : State :=
  { s with env := { (s.after calls).env with
      log := s.env.log
        ++ [⟨(s.after calls).env.now, .transmit, some (s.pe.buildRequest s.params).header, [s.pe.requestObject]⟩] } }

/-- A Request written just now: none is pending, and its PS_RDY is awaited. -/
def State.requestDone (s : State) : State :=
  { s with pl := { s.pl with reqPending := false, waitPsRdy := true, tPsRdy := s.env.now, tPpsReq := s.env.now } }

/-- Phase A where nothing but a Request is due: the framer's operation on it is all that phase A does. -/
theorem State.phaseA_sends {s : State} {calls : List XCall} {c : Status} (hcap : s.capDue = false)
    (hsend : s.sendDue = true)
    (hsent : s.frTxFrame (s.pe.buildRequest s.params).header [s.pe.requestObject] = (c, s.after calls)) :
    s.phaseA (if c.code = 0 then (s.requestLogged calls).requestDone else s.requestLogged calls) c.code := by
  have hlogged : (s.after calls).log .transmit (some (s.pe.buildRequest s.params).header) [s.pe.requestObject]
      = s.requestLogged calls := by
    rw [State.log, State.after_log, State.after_eq]
    rfl
  have hrequest : s.sendRequest
      = (c, if c.code = 0 then (s.requestLogged calls).requestDone else s.requestLogged calls) := by
    rw [State.sendRequest_eq, ← hlogged]
    exact congrArg (fun r : Status × State =>
      let t := r.2.log .transmit (some (s.pe.buildRequest s.params).header) [s.pe.requestObject]
      (r.1, if r.1.code = 0 then t.requestDone else t)) hsent
  refine State.phaseA_iff.2 ?_
  rw [State.phaseSrcCap_not hcap, State.phaseRequest_send hsend, hrequest, worst_ok_left]
  exact ⟨rfl, rfl⟩

/-- Settles O52: a due Request is all that phase A sends, and the flags follow the framer's status
(`State.phaseA_sends`). A status that is not OK stays the TICK's. -/
theorem dueRequestIsSent : Obligations.DueRequestIsSent := by
  intro s hready hcap hsend
  refine ⟨_, s.pe.requestObject, State.peCreateRequest_iff.2 ⟨rfl, rfl⟩, fun hr h0 => ?_, fun st hst => ?_⟩
  · rw [if_pos hr]
    have ha := State.phaseA_sends hcap hsend (State.frTxFrame_written hr h0 _ _)
    rw [if_pos (by rfl)] at ha
    exact ⟨ha, exec_tick_noPoll hready ha, fun hc => exec_tick_of_quiet hready ha hready
      ((State.quiet_iff _).2 ⟨hc, State.not_psRdyDue_of_now rfl, State.not_sendDue_of_waiting rfl⟩)⟩
  · have hfailed : s.phaseA (s.requestLogged (if s.fr.ready
        then [.txWrite (txBytes s.params (s.pe.buildRequest s.params).header [s.pe.requestObject])] else [])) st ∧
        st ≠ 0 := by
      rcases hst with ⟨hr, h0, rfl⟩ | ⟨hr, rfl⟩
      · rw [if_pos hr]
        exact ⟨State.phaseA_sends hcap hsend (State.frTxFrame_unwritten hr h0 _ _), by decide⟩
      · rw [hr]
        exact ⟨State.phaseA_sends (calls := []) hcap hsend (State.frTxFrame_notReady hr _ _), by decide⟩
    obtain ⟨ha, hne⟩ := hfailed
    refine ⟨ha, exec_tick_noPoll hready ha, fun u c hdue hu hr => ?_⟩
    have htick := exec_tick_noEvent hready ha hdue hu hr
    rw [if_neg hne] at htick
    exact htick

end Sys2Proof.Machine

/-! PROOFS. A TICK whose poll receives a frame, or finds that a GoodCRC was sent (O55, O56, O57, O58). -/

namespace Sys2Proof.Machine

open Sys2Proof.Config

/-! ## Headers PL looks at (44_policy.md R282, R283) -/

/-- A header's three fields compared with their values, in numbers. -/
theorem headerFields_iff {h : Half} {ext : BitVec 1} {count : BitVec 3} {code : BitVec 5} :
    (h.extractLsb' 15 1 == ext && h.extractLsb' 12 3 == count && h.extractLsb' 0 5 == code) = true ↔
      h.toNat / 2 ^ 12 = ext.toNat * 8 + count.toNat ∧ h.toNat % 2 ^ 5 = code.toNat := by
  have hlt := h.isLt
  have hext := ext.isLt
  have hcount := count.isLt
  simp only [Bool.and_eq_true, beq_iff_eq, ← BitVec.toNat_inj, half_field]
  omega

theorem isRejectHeader_iff {p : Params} {h : Half} : isRejectHeader p h = true ↔
    h.toNat / 2 ^ 12 = 0 ∧ h.toNat % 2 ^ 5 = (typeCode p .ctrl 4).toNat := headerFields_iff

theorem isRequestHeader_iff {p : Params} {h : Half} : isRequestHeader p h = true ↔
    h.toNat / 2 ^ 12 = 1 ∧ h.toNat % 2 ^ 5 = (typeCode p .data 2).toNat := headerFields_iff

/-! ## Received frames (R282) -/

/-- The log tuple of a received Reject, beside that of every frame (R304). -/
def State.rejectEntries (s : State) : List LogEntry :=
  if isRejectHeader s.params s.fr.rxHdr then [⟨s.env.now, .reject, none, []⟩] else []

/-- s with a received frame logged and PE as its handler has left it. -/
def State.framed (s : State) (rejected : List LogEntry) (pe : Pe) : State :=
  { s with
    pe := pe
    env := { s.env with
      log := s.env.log ++ (⟨s.env.now, .receive, some s.fr.rxHdr, s.fr.rxObj.toList⟩ :: rejected) } }

theorem State.logReceived_eq (s : State) : s.logReceived = s.framed s.rejectEntries s.pe := by
  unfold State.logReceived State.rejectEntries
  dsimp only
  rw [State.log_params, State.log_fr]
  split
  · rw [State.log, State.log_env_log, List.append_assoc]
    rfl
  · rfl

/-- ON_RX_FRAME: the frame logged and handed to PE, and PE's events acted on. -/
theorem State.onRxFrame_eq {s : State} {rejected : List LogEntry} {ev : PeEvents} {pe : Pe}
    (hrejected : s.rejectEntries = rejected) (h : s.pe.handleMsg s.params s.fr.rxHdr s.fr.rxObj.toList = (ev, pe)) :
    s.onRxFrame = (s.framed rejected pe).onPeEvents ev := by
  rw [State.onRxFrame, s.logReceived_eq, hrejected]
  exact congrArg (fun r : PeEvents × Pe => (s.framed rejected r.2).onPeEvents r.1) h

theorem State.rejectEntries_of {s : State} (h : s.fr.rxHdr.toNat / 2 ^ 12 = 0)
    (htyp : s.fr.rxHdr.toNat % 2 ^ 5 = (typeCode s.params .ctrl 4).toNat) :
    s.rejectEntries = [⟨s.env.now, .reject, none, []⟩] :=
  if_pos (isRejectHeader_iff.2 ⟨h, htyp⟩)

theorem State.rejectEntries_of_not {s : State} (h : ¬ (s.fr.rxHdr.toNat / 2 ^ 12 = 0 ∧
    s.fr.rxHdr.toNat % 2 ^ 5 = (typeCode s.params .ctrl 4).toNat)) : s.rejectEntries = [] :=
  if_neg fun hreject => h (isRejectHeader_iff.1 hreject)

/-! ## A frame that calls for no reply, with or without GoodCrcSent (R276, R283) -/

theorem FrEvents.byte_rxFrame (sent : Bool) :
    FrEvents.byte ⟨false, false, true, sent⟩ = if sent then 12 else 4 := by cases sent <;> decide

/-- A poll that brings a frame, and GoodCrcSent if sent. -/
theorem exec_tick_rxFrame {s0 s u : State} {st : Byte} (sent : Bool) (hready : s0.pl.ready = true)
    (ha : s0.phaseA s st) (hdue : s.pollDue = true) (hu : s.settlesAt u)
    (hr : u.port.reply = [0, if sent then 12 else 4]) :
    ∃ fr e, u = s.pollLeft fr e [0, if sent then 12 else 4] ∧ fr.ready = true ∧
      ∀ x, (s.polled fr e).onRxFrame = x → ∀ c r, (if sent then x.onGoodCrcSent else (.ok, x)) = (c, r) →
        exec .tick s0 = .next (r.reply [if st = 0 then c.code else st]) := by
  obtain ⟨fr, e, hleft, hframer, htick⟩ :=
    exec_tick_events hready ha hdue hu hr (FrEvents.byte_rxFrame sent)
  exact ⟨fr, e, hleft, hframer, fun x hx c r hxr => htick c r (by rw [← hxr, ← hx]; rfl)⟩

/-- A frame that leaves x, for which PE has no reply: after it the guard delay at most. -/
theorem exec_tick_silentFrame {s0 s u : State} {st : Byte} {guard : List XCall} (hready : s0.pl.ready = true)
    (ha : s0.phaseA s st) (hdue : s.pollDue = true) (hu : s.settlesAt u)
    (hguard : u.port.reply = [0, 4] ∧ guard = [] ∨ u.port.reply = [0, 12] ∧ guard = [.delayMs s.params.tGuardMs]) :
    ∃ fr e bs, u = s.pollLeft fr e bs ∧ fr.ready = true ∧
      ∀ x l, (s.polled fr e).onRxFrame = x → x.env = { e with log := l } → x.pe.respond s.params = none →
        exec .tick s0 = .next (State.reply { x with env := { (u.after guard).env with log := l } } [st]) := by
  rcases hguard with ⟨hr, rfl⟩ | ⟨hr, rfl⟩
  · obtain ⟨fr, e, rfl, hframer, htick⟩ := exec_tick_rxFrame false hready ha hdue hu hr
    refine ⟨fr, e, _, rfl, hframer, fun x l hx henv _ => ?_⟩
    rw [htick x hx _ _ rfl, if_code_ok]
    exact congrArg (fun v : Env => Host.Outcome.next (State.reply { x with env := v } [st])) henv
  · obtain ⟨fr, e, rfl, hframer, htick⟩ := exec_tick_rxFrame true hready ha hdue hu hr
    refine ⟨fr, e, _, rfl, hframer, fun x l hx henv hsilent => ?_⟩
    have hparams : x.params = s.params := by
      obtain ⟨hp, -⟩ := onRxFrame_step (s.polled fr e)
      rw [← hx, hp]; rfl
    have hguarded := State.onGoodCrcSent_silent (s := x) (by rw [hparams]; exact hsilent)
    rw [hparams] at hguarded
    rw [htick x hx _ _ hguarded, if_code_ok]
    exact congrArg (fun v : Env =>
      Host.Outcome.next ((State.delay { x with env := v } s.params.tGuardMs).reply [st])) henv

/-! ## PS_RDY acted on (R284, R288) -/

/-- Typical power with VBUS sensing on, and no PS_RDY awaited any more. -/
def State.typicalPower (s : State) (mv ma : BitVec 32) : State :=
  { s with
    fr := { s.fr with vbusSenseEn := true }
    pl := { s.pl with waitPsRdy := false, readyStatus := .typical, readyMv := mv, readyMa := ma }
    env := { s.env with log := s.env.log ++ [⟨s.env.now, .powerReady, none, []⟩] } }

/-- PPS at the target with VBUS sensing off. -/
def State.ppsPower (s : State) : State :=
  { s with
    fr := { s.fr with vbusSenseEn := false }
    pl := { s.pl with
      waitPsRdy := false
      readyStatus := .pps
      readyMv := BitVec.ofNat 32 (s.pe.ppsV.toNat * 20)
      readyMa := BitVec.ofNat 32 (s.pe.ppsI.toNat * 50) }
    env := { s.env with log := s.env.log ++ [⟨s.env.now, .powerReady, none, []⟩] } }

theorem fromPps_eq (v : Half) (i : Byte) :
    fromPps v i = (BitVec.ofNat 32 (v.toNat * 20), BitVec.ofNat 32 (i.toNat * 50)) := by
  obtain ⟨hmv, hma⟩ := fromPps_toNat v i
  rw [← hmv, ← hma, BitVec.ofNat_toNat, BitVec.ofNat_toNat, BitVec.setWidth_eq, BitVec.setWidth_eq]

theorem State.onPsRdy_ignored {s : State} (h : s.pl.waitPsRdy = false) : s.onPsRdy = s :=
  if_neg (by rw [h]; decide)

section
variable {s : State} (hw : s.pl.waitPsRdy = true) (hr : s.fr.ready = true)
include hw hr

/-- An awaited PS_RDY whose selection is not live. -/
theorem State.onPsRdy_notLive (hlive : ¬ s.pe.selected.toNat < s.pe.pdoCount.toNat) :
    s.onPsRdy = s.typicalPower 5000 1000 := by
  have hinfo : s.pe.powerInfo s.pe.selected.toNat = none := if_neg hlive
  rw [State.onPsRdy, if_pos hw]
  dsimp only
  rw [hinfo]
  exact State.defaultPower_ready hr

variable (hlive : s.pe.selected.toNat < s.pe.pdoCount.toNat)
include hlive

/-- An awaited PS_RDY whose selection is live, by the capability i that it selects. -/
theorem State.onPsRdy_live {i : PdoInfo} (hi : pdoInfo (s.pe.srcPdo.get s.pe.selected.toNat) = i) :
    s.onPsRdy = if i.typ = .augmented then s.ppsPower.secondStage
      else s.typicalPower (BitVec.ofNat 32 (i.maxV * 50)) (BitVec.ofNat 32 (i.maxI * 10)) := by
  have hinfo : s.pe.powerInfo s.pe.selected.toNat = some i := (if_pos hlive).trans (congrArg some hi)
  rw [State.onPsRdy, if_pos hw]
  dsimp only
  rw [hinfo]
  dsimp only
  rw [fromPps_eq, State.frSetVbusSense_ready (by exact hr), State.frSetVbusSense_ready (by exact hr)]
  rfl

theorem State.onPsRdy_typical {i : PdoInfo} (hi : pdoInfo (s.pe.srcPdo.get s.pe.selected.toNat) = i)
    (htyp : i.typ ≠ .augmented) :
    s.onPsRdy = s.typicalPower (BitVec.ofNat 32 (i.maxV * 50)) (BitVec.ofNat 32 (i.maxI * 10)) := by
  rw [State.onPsRdy_live hw hr hlive hi, if_neg htyp]

theorem State.onPsRdy_pps (h : (s.pe.srcPdo.get s.pe.selected.toNat).toNat / 2 ^ 30 = 3) :
    s.onPsRdy = s.ppsPower.secondStage := by
  rw [State.onPsRdy_live hw hr hlive (pdoInfo_augmented h), if_pos rfl]

end

/-- A second stage that waits: its target set, with the index that the evaluator answers for it, and a Request
pending. -/
theorem State.secondStage_waiting {s : State} (h : s.pl.ppsVNext ≠ 0) :
    s.secondStage = { s with
      pe := s.pe.storedPps s.params s.pl.ppsVNext s.pl.ppsINext
      pl := { s.pl with ppsVNext := 0, ppsINext := 0, reqPending := true } } := by
  rw [State.secondStage, if_neg h, Pe.setPps_stored (by simp)]

theorem State.secondStage_none {s : State} (h : s.pl.ppsVNext = 0) : s.secondStage = s := if_pos h

/-- ON_REJECTED with a PS_RDY awaited: default power, and the second-stage target dropped. -/
theorem State.onRejected_awaited {s : State} (hw : s.pl.waitPsRdy = true) (hr : s.fr.ready = true) :
    s.onRejected = { s.typicalPower 5000 1000 with
      pl := { (s.typicalPower 5000 1000).pl with ppsVNext := 0, ppsINext := 0 } } := by
  rw [State.onRejected, if_pos hw, State.defaultPower_ready (by exact hr)]
  rfl

theorem State.onRejected_ignored {s : State} (h : s.pl.waitPsRdy = false) : s.onRejected = s :=
  if_neg (by rw [h]; decide)

/-! ## PS_RDY and Reject in a TICK (R282, R288, R290) -/

/-- A control frame with the code of row k runs that row's handler. -/
theorem Pe.handleMsg_ctrlCode (pe : Pe) {p : Params} (hw : p.codes.wf = true) {h : Half} {k : BitVec 5}
    (hle : k.toNat ≤ lastIndex .ctrl) (objs : List Obj) (hz : h.toNat / 2 ^ 12 = 0)
    (hk : h.toNat % 2 ^ 5 = (typeCode p .ctrl k).toNat) :
    pe.handleMsg p h objs = (pe.setCurrent .ctrl (typeCode p .ctrl k)).runHandler p [] (handlerOf .ctrl k) :=
  pe.handleMsg_ctrl hw objs (min_lastIndex_eq hw (by decide) hle hk) hz

/-- PE has no reply to PS_RDY nor to Reject, whatever else it holds. -/
theorem Pe.respond_silent {pe : Pe} {p : Params} (hw : p.codes.wf = true) {k : BitVec 5} (hk : k = 4 ∨ k = 6)
    (ht : pe.curTable = .ctrl) (hi : pe.curIndex = typeCode p .ctrl k) : pe.respond p = none := by
  rw [Pe.respond_current pe hw ht hi]
  rcases hk with rfl | rfl <;> rfl

theorem handlerOf_ctrl_reject : handlerOf .ctrl 4 = some .reject := rfl

theorem Pe.runHandler_reject (pe : Pe) (p : Params) (objs : List Obj) :
    pe.runHandler p objs (some .reject) = pe.rejectedBy p.rejectPolicy := rfl

/-- PS_RDY, or Reject under AsPsRdy: logged and handed to PE, either is acted on as PS_RDY. -/
theorem State.onRxFrame_psRdy {s : State} (hw : s.params.codes.wf = true) {k : BitVec 5} {rejected : List LogEntry}
    (hk : k = 6 ∧ rejected = [] ∨
      k = 4 ∧ s.params.rejectPolicy = .asPsRdy ∧ rejected = [⟨s.env.now, .reject, none, []⟩])
    (hz : s.fr.rxHdr.toNat / 2 ^ 12 = 0) (htyp : s.fr.rxHdr.toNat % 2 ^ 5 = (typeCode s.params .ctrl k).toNat) :
    s.onRxFrame = (s.framed rejected (s.pe.setCurrent .ctrl (typeCode s.params .ctrl k))).onPsRdy := by
  rcases hk with ⟨rfl, rfl⟩ | ⟨rfl, hpolicy, rfl⟩
  · have hnot : s.rejectEntries = [] := State.rejectEntries_of_not fun ⟨_, h4⟩ =>
      absurd (typeCode_inj hw (BitVec.eq_of_toNat_eq (htyp.symm.trans h4))) (by decide)
    exact State.onRxFrame_eq hnot (s.pe.handleMsg_ctrlCode hw (by decide) _ hz htyp)
  · have hhandled := s.pe.handleMsg_ctrlCode hw (by decide) s.fr.rxObj.toList hz htyp
    rw [handlerOf_ctrl_reject, Pe.runHandler_reject, hpolicy] at hhandled
    exact State.onRxFrame_eq (State.rejectEntries_of hz htyp) hhandled

/-- Reject under Distinct: logged and handed to PE, it is acted on as a Reject. -/
theorem State.onRxFrame_rejected {s : State} (hw : s.params.codes.wf = true)
    (hpolicy : s.params.rejectPolicy = .distinct) (hz : s.fr.rxHdr.toNat / 2 ^ 12 = 0)
    (htyp : s.fr.rxHdr.toNat % 2 ^ 5 = (typeCode s.params .ctrl 4).toNat) :
    s.onRxFrame = (s.framed [⟨s.env.now, .reject, none, []⟩]
      (s.pe.setCurrent .ctrl (typeCode s.params .ctrl 4))).onRejected := by
  have hhandled := s.pe.handleMsg_ctrlCode hw (by decide) s.fr.rxObj.toList hz htyp
  rw [handlerOf_ctrl_reject, Pe.runHandler_reject, hpolicy] at hhandled
  exact State.onRxFrame_eq (State.rejectEntries_of hz htyp) hhandled

/-- A frame acted on as PS_RDY, for which PE has no reply: x is what ON_PS_RDY leaves. -/
theorem exec_tick_psRdy {s0 s u : State} {st : Byte} {guard : List XCall} (hready : s0.pl.ready = true)
    (ha : s0.phaseA s st) (hdue : s.pollDue = true) (hu : s.settlesAt u) (hw : s.params.codes.wf = true)
    {k : BitVec 5} {rejected : List LogEntry} (hk : k = 6 ∧ rejected = [] ∨
      k = 4 ∧ s.params.rejectPolicy = .asPsRdy ∧ rejected = [⟨u.env.now, .reject, none, []⟩])
    (hz : u.fr.rxHdr.toNat / 2 ^ 12 = 0) (htyp : u.fr.rxHdr.toNat % 2 ^ 5 = (typeCode s.params .ctrl k).toNat)
    (hguard : u.port.reply = [0, 4] ∧ guard = [] ∨ u.port.reply = [0, 12] ∧ guard = [.delayMs s.params.tGuardMs]) :
    ∃ fr e bs, u = s.pollLeft fr e bs ∧ fr.ready = true ∧
      ∀ x l, ((s.polled fr e).framed rejected (s.pe.setCurrent .ctrl (typeCode s.params .ctrl k))).onPsRdy = x →
        x.env = { e with log := l } → x.pe.curTable = .ctrl → x.pe.curIndex = typeCode s.params .ctrl k →
        exec .tick s0 = .next (State.reply { x with env := { (u.after guard).env with log := l } } [st]) := by
  obtain ⟨fr, e, bs, rfl, hr, htick⟩ := exec_tick_silentFrame hready ha hdue hu hguard
  have hframe := State.onRxFrame_psRdy (s := s.polled fr e) hw hk hz htyp
  have hrow : k = 4 ∨ k = 6 := by
    rcases hk with ⟨rfl, -⟩ | ⟨rfl, -⟩
    · exact .inr rfl
    · exact .inl rfl
  exact ⟨fr, e, bs, rfl, hr, fun x l hx henv ht hi =>
    htick x l (hframe.trans hx) henv (Pe.respond_silent hw hrow ht hi)⟩

/-- Settles O56: a frame acted on as PS_RDY (`exec_tick_psRdy`), by the capability that is selected. -/
theorem tickPsRdy : Obligations.TickPsRdy := by
  intro s0 s u st hready ha hdue hw hu k rejected hk hz htyp guard hguard
  obtain ⟨fr, e, bs, rfl, hr, htick⟩ := exec_tick_psRdy hready ha hdue hu hw hk hz htyp hguard
  let y := (s.polled fr e).framed rejected (s.pe.setCurrent .ctrl (typeCode s.params .ctrl k))
  refine ⟨fun hwait => ?_, fun hwait hlive => ?_, fun hwait hlive htype => ?_, fun hwait hlive htype => ?_,
    fun hwait hlive htype => ?_, fun hwait hlive htype hnext => ?_, fun hwait hlive htype hnext => ?_⟩
  · exact htick _ _ (State.onPsRdy_ignored hwait) rfl rfl rfl
  · exact htick _ _ (State.onPsRdy_notLive hwait hr hlive) rfl rfl rfl
  · exact htick _ _ (State.onPsRdy_typical (s := y) hwait hr hlive
      (pdoInfo_fixed htype) nofun) rfl rfl rfl
  · exact htick _ _ (State.onPsRdy_typical (s := y) hwait hr hlive
      (pdoInfo_battery htype) nofun) rfl rfl rfl
  · exact htick _ _ (State.onPsRdy_typical (s := y) hwait hr hlive
      (pdoInfo_variable htype) nofun) rfl rfl rfl
  · exact htick _ _ ((State.onPsRdy_pps (s := y) hwait hr hlive htype).trans
      (State.secondStage_none hnext)) rfl rfl rfl
  · refine ⟨_, exec_peSetPps _ _ 0 _, ?_⟩
    rw [Pe.setPps_stored (by simp)]
    exact htick _ _ ((State.onPsRdy_pps (s := y) hwait hr hlive htype).trans
      (State.secondStage_waiting hnext)) rfl rfl rfl

/-- Settles O57: Reject is acted on as such, and leaves no reply either. -/
theorem tickDistinctReject : Obligations.TickDistinctReject := by
  intro s0 s u st hready ha hdue hw hu hpolicy hz htyp guard hguard
  obtain ⟨fr, e, bs, rfl, hr, htick⟩ := exec_tick_silentFrame hready ha hdue hu hguard
  have hframe := State.onRxFrame_rejected (s := s.polled fr e) hw hpolicy hz htyp
  have hsilent : ∀ pe : Pe, pe.curTable = .ctrl → pe.curIndex = typeCode s.params .ctrl 4 →
      pe.respond s.params = none := fun _ => Pe.respond_silent hw (.inl rfl)
  refine ⟨fun hwait => ?_, fun hwait => ?_⟩
  · exact htick _ _ (hframe.trans (State.onRejected_ignored hwait)) rfl (hsilent _ rfl rfl)
  · exact htick _ _ (hframe.trans (State.onRejected_awaited hwait hr)) rfl (hsilent _ rfl rfl)

/-! ## ON_GOOD_CRC_SENT by its outcomes (R283) -/

/-- The reply logged after the guard delay and its write, whether or not it was written. -/
def State.flushed (s : State) (f : Frame) : State :=
  (s.after [.delayMs s.params.tGuardMs, .txWrite (txBytes s.params f.header f.objs)]).log
    .transmit (some f.header) f.objs

/-- A Request written as a reply: none is pending, and the keep-alive clock starts again. -/
def State.requestFlushed (s : State) : State :=
  { s with pl := { s.pl with reqPending := false, tPpsReq := s.env.now } }

section
variable {s : State} {f : Frame} (hf : s.pe.respond s.params = some f) (hr : s.fr.ready = true)
include hf hr

theorem State.onGoodCrcSent_request (h0 : s.succeeds 0 = true) (hrequest : isRequestHeader s.params f.header = true) :
    s.onGoodCrcSent = (.ok, (s.flushed f).requestFlushed) := by
  rw [State.onGoodCrcSent_sent hf hr h0]
  dsimp only
  rw [if_pos hrequest]
  rfl

theorem State.onGoodCrcSent_other (h0 : s.succeeds 0 = true) (hrequest : ¬ isRequestHeader s.params f.header = true) :
    s.onGoodCrcSent = (.ok, s.flushed f) := by
  rw [State.onGoodCrcSent_sent hf hr h0]
  dsimp only
  rw [if_neg hrequest]
  rfl

theorem State.onGoodCrcSent_unwritten (h0 : s.succeeds 0 = false) : s.onGoodCrcSent = (.writeError, s.flushed f) :=
  State.onGoodCrcSent_fail hf hr h0

end

/-! ## Source_Capabilities in a TICK (R282, R283, R285) -/

/-- A DATA frame with the code of row k runs that row's handler, on as many objects as its header announces. -/
theorem Pe.handleMsg_dataCode (pe : Pe) {p : Params} (hw : p.codes.wf = true) {h : Half} {k : BitVec 5}
    (hle : k.toNat ≤ lastIndex .data) (objs : List Obj) (h1 : 1 ≤ h.toNat / 2 ^ 12) (h7 : h.toNat / 2 ^ 12 ≤ 7)
    (hk : h.toNat % 2 ^ 5 = (typeCode p .data k).toNat) :
    pe.handleMsg p h objs
      = (pe.setCurrent .data (typeCode p .data k)).runHandler p (present (objectCount h) objs) (handlerOf .data k) := by
  have hcount : h.toNat / 2 ^ 12 = objectCount h := by rw [objectCount_eq]; omega
  have hpresent := present_length (objectCount h) objs
  rw [← pe.handleMsg_data hw (objs := present (objectCount h) objs) (min_lastIndex_eq hw (by decide) hle hk)
    (by omega) (by omega) (by omega), Pe.handleMsg, Pe.handleMsg, present_eq hpresent]

/-- PL after Source_Capabilities: PS_RDY is awaited from now on, and a Request is pending. -/
def State.sourceSeen (s : State) (pe : Pe) : State :=
  { s with
    pe := pe
    pl := { s.pl with
      waitSrcCap := false
      srcCapRetry := 0
      waitPsRdy := true
      tPsRdy := s.env.now
      reqPending := true }
    env := { s.env with
      log := s.env.log ++ [⟨s.env.now, .receive, some s.fr.rxHdr, s.fr.rxObj.toList⟩,
        ⟨s.env.now, .capReceived, none, []⟩] } }

/-- The frame is PE's to handle, and PE's reply to it is the Request for its list (42_codec_tx.md R221). -/
theorem State.onRxFrame_sourceCap {s : State} (hw : s.params.codes.wf = true) (h1 : 1 ≤ s.fr.rxHdr.toNat / 2 ^ 12)
    (h7 : s.fr.rxHdr.toNat / 2 ^ 12 ≤ 7)
    (htyp : s.fr.rxHdr.toNat % 2 ^ 5 = (typeCode s.params .data 1).toNat) :
    let pe := (s.pe.handleMsg s.params s.fr.rxHdr s.fr.rxObj.toList).2
    s.onRxFrame = s.sourceSeen pe ∧ pe.respond s.params = some (pe.buildRequest s.params) := by
  have hhandled := s.pe.handleMsg_dataCode hw (by decide) s.fr.rxObj.toList h1 h7 htyp
  have hnot : s.rejectEntries = [] := State.rejectEntries_of_not fun ⟨hz, _⟩ => by omega
  dsimp only
  rw [State.onRxFrame_eq hnot hhandled, hhandled]
  refine ⟨?_, Pe.respond_current _ hw (t := .data) (k := 1) rfl rfl⟩
  show State.onSourceCap _ = _
  rw [State.onSourceCap, State.log, State.framed, State.sourceSeen, List.append_assoc]
  rfl

theorem isRequestHeader_buildRequest (pe : Pe) (p : Params) : isRequestHeader p (pe.buildRequest p).header = true := by
  have hcode := (typeCode p .data 2).isLt
  have hid := pe.msgId.isLt
  rw [isRequestHeader_iff]
  show (pe.header p .data 2 1 0).toNat / _ = _ ∧ (pe.header p .data 2 1 0).toNat % _ = _
  rw [Pe.header, genHeader_toNat, show specRev.toNat = 2 from rfl, show (1 : BitVec 3).toNat = 1 from rfl,
    show (0 : BitVec 1).toNat = 0 from rfl]
  omega

/-- Settles O55: the frame leaves its Request to be sent, at once where GoodCrcSent came with it. -/
theorem tickSourceCapabilities : Obligations.TickSourceCapabilities := by
  intro s0 s u st hready ha hdue hu h hw hext hcount htyp
  have hdata : 1 ≤ h.toNat / 2 ^ 12 ∧ h.toNat / 2 ^ 12 ≤ 7 := by omega
  obtain ⟨h1, h7⟩ := hdata
  refine ⟨_, _, _, rfl, State.peCreateRequest_iff.2 ⟨rfl, rfl⟩, fun hr => ?_, fun hr h0 => ?_, fun hr h0 => ?_⟩
  · obtain ⟨fr, e, rfl, -, htick⟩ := exec_tick_rxFrame false hready ha hdue hu hr
    obtain ⟨hframe, -⟩ := State.onRxFrame_sourceCap (s := s.polled fr e) hw h1 h7 htyp
    rw [htick _ hframe _ _ rfl, if_code_ok]
    rfl
  all_goals
    obtain ⟨fr, e, rfl, hframer, htick⟩ := exec_tick_rxFrame true hready ha hdue hu hr
    obtain ⟨hframe, hrespond⟩ := State.onRxFrame_sourceCap (s := s.polled fr e) hw h1 h7 htyp
  · rw [htick _ hframe _ _ (State.onGoodCrcSent_request hrespond hframer h0 (isRequestHeader_buildRequest _ _)),
      if_code_ok]
    rfl
  · rw [htick _ hframe _ _ (State.onGoodCrcSent_unwritten hrespond hframer h0)]
    rfl

/-! ## Every other frame (R282, R287, R291) -/

/-- The handler of a row that PL acts on names its row. -/
theorem handlerOf_actedOn {t : Table} {k : BitVec 5} :
    (handlerOf t k = some .sourceCap → t = .data ∧ k = 1) ∧ (handlerOf t k = some .psRdy → t = .ctrl ∧ k = 6) ∧
    (handlerOf t k = some .reject → t = .ctrl ∧ k = 4) := by
  cases t <;> revert k <;> decide

/-- A header whose clamped type is the code of a row below the catch-all has that code as its type. -/
theorem headerType_eq_code {p : Params} (hw : p.codes.wf = true) {h : Half} {t : Table} {k : BitVec 5} (ht : t ≠ .none)
    (hk : k.toNat < lastIndex t) (hrow : codeRow p t (clampIndex t (h.extractLsb' 0 5)) = k) :
    h.toNat % 2 ^ 5 = (typeCode p t k).toNat := by
  have hlt := typeCode_lt hw ht hk
  have hclamp := clampIndex_toNat t h
  rw [← hrow, typeCode_codeRow hw] at hlt ⊢
  omega

/-- The frames that PL does nothing more with: no Source_Capabilities, PS_RDY or Reject. -/
def plainHeader (p : Params) (h : Half) : Prop :=
  ¬ (1 ≤ h.toNat / 2 ^ 12 ∧ h.toNat / 2 ^ 12 ≤ 7 ∧ h.toNat % 2 ^ 5 = (typeCode p .data 1).toNat) ∧
  ¬ (h.toNat / 2 ^ 12 = 0 ∧
    (h.toNat % 2 ^ 5 = (typeCode p .ctrl 4).toNat ∨ h.toNat % 2 ^ 5 = (typeCode p .ctrl 6).toNat))

theorem headerClass_ctrl {h : Half} (ht : tableOf (h.extractLsb' 15 1) (objectCount h) = .ctrl) :
    h.toNat / 2 ^ 12 = 0 := by
  rcases tableOf_header h with ⟨hclass, -⟩ | ⟨-, -, he⟩ | ⟨-, he⟩
  · exact hclass
  · cases ht.symm.trans he
  · cases ht.symm.trans he

theorem headerClass_data {h : Half} (ht : tableOf (h.extractLsb' 15 1) (objectCount h) = .data) :
    1 ≤ h.toNat / 2 ^ 12 ∧ h.toNat / 2 ^ 12 ≤ 7 := by
  rcases tableOf_header h with ⟨-, he⟩ | ⟨hmin, hmax, -⟩ | ⟨-, he⟩
  · cases ht.symm.trans he
  · exact ⟨hmin, Nat.le_of_lt_succ hmax⟩
  · cases ht.symm.trans he

/-- The row of a plain header has none of the three handlers whose events PL acts on. -/
theorem handlerOf_plainHeader {p : Params} (hw : p.codes.wf = true) {h : Half} (hplain : plainHeader p h) {t : Table}
    (ht : tableOf (h.extractLsb' 15 1) (objectCount h) = t) {hd : Option Handler}
    (hhd : handlerOf t (codeRow p t (clampIndex t (h.extractLsb' 0 5))) = hd) :
    hd ≠ some .sourceCap ∧ hd ≠ some .psRdy ∧ hd ≠ some .reject := by
  obtain ⟨hdata, hctrl⟩ := hplain
  obtain ⟨hsource, hready, hreject⟩ := handlerOf_actedOn (t := t) (k := codeRow p t (clampIndex t (h.extractLsb' 0 5)))
  rw [hhd] at hsource hready hreject
  refine ⟨fun he => ?_, fun he => ?_, fun he => ?_⟩
  · obtain ⟨rfl, hrow⟩ := hsource he
    obtain ⟨h1, h7⟩ := headerClass_data ht
    exact hdata ⟨h1, h7, headerType_eq_code hw (by decide) (by decide) hrow⟩
  · obtain ⟨rfl, hrow⟩ := hready he
    exact hctrl ⟨headerClass_ctrl ht, .inr (headerType_eq_code hw (by decide) (by decide) hrow)⟩
  · obtain ⟨rfl, hrow⟩ := hreject he
    exact hctrl ⟨headerClass_ctrl ht, .inl (headerType_eq_code hw (by decide) (by decide) hrow)⟩

/-- PE's events that PL does nothing with. -/
theorem State.onPeEvents_of_not {s : State} {ev : PeEvents} (h1 : ev.sourceCapReceived = false) (h2 : ev.psRdy = false)
    (h3 : ev.rejected = false) : s.onPeEvents ev = s := by
  rw [State.onPeEvents, h1, h2, h3]
  rfl

/-- Every other handler emits none of the events that PL acts on. -/
theorem State.onPeEvents_runHandler (s : State) (pe : Pe) (p : Params) (objs : List Obj) {hd : Option Handler}
    (hne : hd ≠ some .sourceCap ∧ hd ≠ some .psRdy ∧ hd ≠ some .reject) :
    s.onPeEvents (pe.runHandler p objs hd).1 = s := by
  obtain ⟨hsource, hready, hreject⟩ := hne
  match hd with
  | some .sourceCap => exact absurd rfl hsource
  | some .psRdy => exact absurd rfl hready
  | some .reject => exact absurd rfl hreject
  | some .goodCrc | some .accept | some .ppsStatus | some .nop | none => exact State.onPeEvents_of_not rfl rfl rfl

/-- A plain frame is logged and handed to PE, and that is all. -/
theorem State.onRxFrame_plain {s : State} (hw : s.params.codes.wf = true) (hplain : plainHeader s.params s.fr.rxHdr) :
    s.onRxFrame = s.framed [] (s.pe.handleMsg s.params s.fr.rxHdr s.fr.rxObj.toList).2 := by
  have hnot : s.rejectEntries = [] := State.rejectEntries_of_not fun ⟨hz, h4⟩ => hplain.2 ⟨hz, .inl h4⟩
  rw [State.onRxFrame_eq (pe := (s.pe.handleMsg s.params s.fr.rxHdr s.fr.rxObj.toList).2) hnot rfl]
  exact State.onPeEvents_runHandler _ _ _ _ (handlerOf_plainHeader hw hplain rfl rfl)

/-! ## The queued reply (R283) -/

/-- A responder builds as many objects as its header announces. -/
theorem Pe.runResponder_count (pe : Pe) (p : Params) (r : Responder) :
    (pe.runResponder p r).objs.length = (pe.runResponder p r).header.toNat / 2 ^ 12 % 8 := by
  have hheader : ∀ t row count ext, objectCount (pe.header p t row count ext) = count.toNat := fun t row count ext => by
    rw [Pe.header_eq_rxHeader, rxHeader_count]
  rw [← objectCount_eq]
  cases r with
  | sinkCapExt => exact (present_length 6 _).trans (hheader .ext 15 6 1).symm
  | sinkCap | request => exact (hheader _ _ 1 0).symm
  | reject | accept | notSupported => exact (hheader _ _ 0 0).symm

theorem Pe.respond_count {pe : Pe} {p : Params} {f : Frame} (h : pe.respond p = some f) :
    f.objs.length = f.header.toNat / 2 ^ 12 % 8 := by
  obtain ⟨r, -, rfl⟩ := Option.map_eq_some_iff.1 h
  exact pe.runResponder_count p r

/-- What a TICK of s0, whose phase A had status st, makes of GoodCrcSent in the state v: the reply PE_RESPOND builds
there, if it builds one, goes out after the guard delay. -/
def State.repliesFrom (s0 v : State) (st : Byte) : Prop :=
  let waited := v.after [.delayMs v.params.tGuardMs]
  (exec .peRespond v = .next (v.reply [0]) ∧ exec .tick s0 = .next (waited.reply [st])) ∨
  ∃ (h : Half) (objs : List Obj), objs.length = h.toNat / 2 ^ 12 % 8 ∧
    exec .peRespond v = .next (v.reply (1 :: (le16 h ++ objsBytes objs))) ∧
    let sent := waited.after [.txWrite (txBytes v.params h objs)]
    let t : State := { v with env := { sent.env with log := v.env.log ++ [⟨sent.env.now, .transmit, some h, objs⟩] } }
    let request := h.toNat / 2 ^ 12 = 1 ∧ h.toNat % 2 ^ 5 = (typeCode v.params .data 2).toNat
    (v.succeeds 0 = true → ¬ request → exec .tick s0 = .next (t.reply [st])) ∧
    (v.succeeds 0 = true → request → exec .tick s0 = .next (State.reply { t with
      pl := { v.pl with reqPending := false, tPpsReq := sent.env.now } } [st])) ∧
    (v.succeeds 0 = false → exec .tick s0 = .next (t.reply [if st = 0 then 3 else st]))

/-- A TICK that acts on GoodCrcSent in a state that differs from v by the last answer at the port. -/
theorem State.repliesFrom_of_onGoodCrcSent {s0 v : State} {st : Byte} {bs : List Byte} (hr : v.fr.ready = true)
    (htick : ∀ c r, (v.reply bs).onGoodCrcSent = (c, r) →
      exec .tick s0 = .next (r.reply [if st = 0 then c.code else st])) : s0.repliesFrom v st := by
  have hexec : exec .peRespond v = .next (v.reply (respondBytes (v.pe.respond v.params))) := rfl
  cases hf : v.pe.respond v.params with
  | none =>
    rw [hf] at hexec
    refine .inl ⟨hexec, ?_⟩
    rw [htick _ _ (State.onGoodCrcSent_silent (s := v.reply bs) hf), if_code_ok]
    rfl
  | some f =>
    rw [hf] at hexec
    refine .inr ⟨f.header, f.objs, Pe.respond_count hf, hexec, fun h0 hq => ?_, fun h0 hq => ?_, fun h0 => ?_⟩
    · rw [htick _ _ (State.onGoodCrcSent_other (s := v.reply bs) hf hr h0 (mt isRequestHeader_iff.1 hq)), if_code_ok]
      rfl
    · rw [htick _ _ (State.onGoodCrcSent_request (s := v.reply bs) hf hr h0 (isRequestHeader_iff.2 hq)), if_code_ok]
      rfl
    · rw [htick _ _ (State.onGoodCrcSent_unwritten (s := v.reply bs) hf hr h0)]
      rfl

/-- Settles O58: a plain frame is PE's alone (`State.onRxFrame_plain`), and GoodCrcSent, alone or after it, lets the
reply out that is then current (`State.repliesFrom_of_onGoodCrcSent`). -/
theorem tickFlushesTheQueuedReply : Obligations.TickFlushesTheQueuedReply := by
  intro s0 s u st hready ha hdue hu
  refine ⟨_, rfl, fun hw hr hplain => ?_, fun v hv => ?_⟩
  · obtain ⟨fr, e, rfl, -, htick⟩ := exec_tick_rxFrame false hready ha hdue hu hr
    rw [htick _ (State.onRxFrame_plain (s := s.polled fr e) hw hplain) _ _ rfl, if_code_ok]
    rfl
  · rcases hv with ⟨hr, rfl⟩ | ⟨hw, hr, hplain, rfl⟩
    · obtain ⟨fr, e, rfl, hframer, htick⟩ := exec_tick_events (ev := ⟨false, false, false, true⟩) hready ha hdue hu hr
        (by decide)
      exact State.repliesFrom_of_onGoodCrcSent (bs := s.port.reply) hframer htick
    · obtain ⟨fr, e, rfl, hframer, htick⟩ := exec_tick_rxFrame true hready ha hdue hu hr
      exact State.repliesFrom_of_onGoodCrcSent (bs := s.port.reply) hframer
        (htick _ (State.onRxFrame_plain (s := s.polled fr e) hw hplain))

end Sys2Proof.Machine

/-! PROOFS. Reset and the command that overlaps another (O7, O9). -/

namespace Sys2Proof.Machine

/-- The third way a step goes, beside `step_of_idle` and `step_of_decoded`: the overlap is looked at before the bytes
are, so that it is refused whatever they decode to. -/
theorem step_of_overlapping {s : State} {x : Stimulus} {rest : List Stimulus} (hx : s.port.inbox = x :: rest)
    (hover : x.overlaps = true) : step s = .refused .reentrantCommand := by
  simp only [step, hx, hover, if_true]

/-- Settles O7: the command at the head of the port overlaps (`step_of_overlapping`). -/
theorem overlappingCommandRefused : Obligations.OverlappingCommandRefused :=
  fun _ _ _ => step_of_overlapping

/-- Settles O9, unit by unit: the framer's, PE's and PL's registers after reset are the values written out. -/
theorem resetValues : Obligations.ResetValues := ⟨rfl, rfl, rfl⟩

end Sys2Proof.Machine
